-- ==== Sys2Proof/Word.lean ====
section
/-! DEFINITION. The byte type of the code stores and of the I/O channel, and the truncation `trunc_8` of
spec/00_scope.md section 5. Every other value of this core is an unsigned natural number there. -/

namespace Sys2Proof

/-- One byte: an opcode byte, a byte of a code image, or a byte on the I/O channel (R50). -/
abbrev Byte := BitVec 8

/-- `trunc_8(v)` of spec/00_scope.md section 5: the low 8 bits of a natural number. -/
def trunc8 (v : Nat) : Byte := BitVec.ofNat 8 v

end Sys2Proof
end

