-- ==== Sys2Proof/Syntax.lean ====
section
/-! DEFINITION. The instructions of spec/opcode_table.json, one constructor a row (spec/30_encoding.md
R81, R82). No instruction has an explicit operand (R84); a comment carries its byte, since 247 byte
values are comments and a trap or an encoder needs to tell bytes apart. -/

namespace Sys2Proof

/-- The instruction set BOF8 (R1): nine opcodes (R81) and the comment class (R82). -/
inductive Instr where
  /-- NUL, 0x00: halt (R190). -/
  | nul
  /-- `+`, 0x2B: increment the current cell (R140). -/
  | inc
  /-- `,`, 0x2C: input a byte into the current cell (R181). -/
  | input
  /-- `-`, 0x2D: decrement the current cell (R141). -/
  | dec
  /-- `.`, 0x2E: output the current cell (R180). -/
  | output
  /-- `<`, 0x3C: move the tape pointer left (R131). -/
  | left
  /-- `>`, 0x3E: move the tape pointer right (R130). -/
  | right
  /-- `[`, 0x5B: loop open, or skip begin, or nested skip (R150). -/
  | loopOpen
  /-- `]`, 0x5D: loop close, loop exit, or skip end (R151). -/
  | loopClose
  /-- Any other byte: a comment, which does nothing (R82, R191). -/
  | comment (b : Byte)
  deriving DecidableEq, Repr

end Sys2Proof
end

