-- ==== Sys2Proof/WellFormed.lean ====
section
/-! DEFINITION. Which terms of `Instr` stand for an instruction: all of them, but for a comment that
carries an opcode byte, since the comment class is exactly the complement of the nine opcode bytes
(spec/30_encoding.md R82). -/

namespace Sys2Proof

/-- The nine opcode bytes of R81, in the table's order: NUL `+` `,` `-` `.` `<` `>` `[` `]`. -/
def opcodeBytes : List Byte := [0x00, 0x2B, 0x2C, 0x2D, 0x2E, 0x3C, 0x3E, 0x5B, 0x5D]

/-- An instruction is well formed unless it is a comment on an opcode byte (R82). -/
def Instr.wellFormed : Instr → Bool
  | .nul => true
  | .inc => true
  | .input => true
  | .dec => true
  | .output => true
  | .left => true
  | .right => true
  | .loopOpen => true
  | .loopClose => true
  | .comment b => !opcodeBytes.contains b

end Sys2Proof
end

