-- ==== Sys2Proof/Decode.lean ====
section
/-! DEFINITION. The decoder and the encoder of spec/30_encoding.md: one byte an instruction (R80), nine
opcode bytes (R81), every other byte a comment (R82). Decoding is total on bytes (R83) and depends on
nothing but the byte (R80, R85). -/

namespace Sys2Proof

/-- The instruction of one byte (R81, R82). All opcode bytes but 0x00 and 0x3E are ASCII codes that the spec
takes from general knowledge (D25): PRESUMED (notes/assumptions/10.md). -/
def decodeByte (b : Byte) : Instr :=
  if b = 0x00 then .nul
  else if b = 0x2B then .inc
  else if b = 0x2C then .input
  else if b = 0x2D then .dec
  else if b = 0x2E then .output
  else if b = 0x3C then .left
  else if b = 0x3E then .right
  else if b = 0x5B then .loopOpen
  else if b = 0x5D then .loopClose
  else .comment b

/-- Why bytes do not decode. No byte value is rejected (R83): only a missing byte is. -/
inductive DecodeError where
  /-- There is no byte to decode. -/
  | noByte
  deriving DecidableEq, Repr

/-- The first instruction of a byte sequence, with the bytes after it (R80, R87). -/
def decode : List Byte → Except DecodeError (Instr × List Byte)
  | [] => .error .noByte
  | b :: rest => .ok (decodeByte b, rest)

/-- The byte of an instruction, from R81's table; a comment is its own byte (R82). -/
def encodeByte : Instr → Byte
  | .nul => 0x00
  | .inc => 0x2B
  | .input => 0x2C
  | .dec => 0x2D
  | .output => 0x2E
  | .left => 0x3C
  | .right => 0x3E
  | .loopOpen => 0x5B
  | .loopClose => 0x5D
  | .comment b => b

/-- The bytes of an instruction: exactly one (R80). -/
def encode (i : Instr) : List Byte := [encodeByte i]

/-- What the decoder reads from the instruction word `w` of a row of spec/opcode_table.json. Every row
is the one-byte format B8 (R80), so a word that does not fit one byte is no instruction. -/
def decodeTableWord (nbits w : Nat) : Option Instr :=
  if nbits ≤ 8 ∧ w < 256 then
    match decode [BitVec.ofNat 8 w] with
    | .ok (i, []) => some i
    | _ => none
  else none

end Sys2Proof
end

