-- ==== Sys2Proof/Config.lean ====
section
/-! DEFINITION. The architecture configuration of spec/00_scope.md section 4 (R4 to R13), and the one
configuration the machine of `State.reset` is built with. What is computed from a configuration
(validity, tape length, register widths) is in Machine/Params.lean. -/

namespace Sys2Proof

/-- The parameters of the machine (R4 to R13). A configuration is fixed when the processor is
constructed and nothing writes it afterwards (R4). -/
structure Config where
  /-- Tape length selector: an exponent, or `none` for the sentinel "effectively unbounded" (R5). -/
  tl : Option Nat
  /-- Cell width in bits (R7). -/
  tw : Nat
  /-- Mode count, 2 or 3; no behaviour depends on it (R8; notes/assumptions/8.md). -/
  nm : Nat
  /-- Call-stack depth in entries (R9). -/
  sd : Nat
  /-- Capacity of each code store in bytes (R10). -/
  il : Nat
  /-- Whether `,` writes the byte it reads into the cell; true unless chosen otherwise (R12). -/
  inputWriteback : Bool := true
  /-- `TP_W_UNBOUNDED` (R13), the width of `tp` for the sentinel; `none` is the unbounded natural that
  spec/93_implementation_defined.md allows (notes/assumptions/6.md). -/
  tpWUnbounded : Option Nat
  deriving DecidableEq, Repr

/-- The ends of the legal ranges of R5 and R7 to R10. The spec calls the source's numbers unaudited and
asks that a model take them as parameter bounds (R13; spec/93_implementation_defined.md, the row on the
document's numeric literals). -/
structure ConfigBounds where
  /-- The smallest exponent of a finite tape (R5). -/
  tlMin : Nat
  /-- The largest exponent of a finite tape (R5). -/
  tlMax : Nat
  /-- The smallest cell width in bits (R7). -/
  twMin : Nat
  /-- The largest cell width in bits (R7). -/
  twMax : Nat
  /-- The number of bits a cell width is a multiple of (R7). -/
  twUnit : Nat
  /-- The smaller mode count (R8). -/
  nmMin : Nat
  /-- The larger mode count (R8). -/
  nmMax : Nat
  /-- The smallest call-stack depth (R9). -/
  sdMin : Nat
  /-- The smallest code capacity in bytes (R10). -/
  ilMin : Nat
  deriving DecidableEq, Repr

/-- The configuration of `State.reset`: the default of spec/95_test_vectors.md, "Conventions".
DESIGN CHOICE (notes/assumptions/1.md): the spec fixes no configuration. -/
def Config.standard : Config :=
  { tl := some 10, tw := 8, nm := 3, sd := 4, il := 64, tpWUnbounded := none }

end Sys2Proof
end

