-- ==== Sys2Proof/Machine/State.lean ====
section
/-! DEFINITION. The machine's state as plain data, its reset value, and the reasons a step can stop.
The registers and the call stack are those of spec/10_state.md R20; the stores and the I/O channel are
those of spec/20_memory.md R50. `pc`, `tp`, `sp`, `sk` are naturals, as spec/00_scope.md R11 allows. -/

namespace Sys2Proof.Machine

/-- The three modes (R27, R210). -/
inductive Mode where
  | application
  | supervisor
  | halt
  deriving DecidableEq, Repr

/-- The result class of a step (R106). -/
inductive ResultClass where
  | regular
  | nop
  | skip
  | controlFlow
  | violation
  | halt
  deriving DecidableEq, Repr

/-- The two code stores (R50). -/
inductive CodeSpace where
  | acode
  | scode
  deriving DecidableEq, Repr

/-- What the `step` port (R70, R100) last answered the host. DESIGN CHOICE (notes/assumptions/3.md):
the pair a step returns is an output, and State is the only place the host's interface shows one. -/
inductive StepAnswer where
  /-- No step has been taken since reset. -/
  | idle
  /-- The step returned `(stepsTaken, cyclesSpent)` (R100, R108). -/
  | pair (stepsTaken cyclesSpent : Nat)
  /-- The step has not completed: its `,` waits for an input byte (R58, R110). -/
  | waiting
  deriving DecidableEq, Repr

/-- All the state there is: the core's registers and call stack (R20), what the external stores and the
I/O device hold (R50), and the answer of the step port (R100). The configuration is a parameter of the
machine and is not in it (R4). -/
structure CoreState where
  /-- Program counter: an address in the active code store (R21). -/
  pc : Nat
  /-- Tape pointer (R22). -/
  tp : Nat
  /-- Call-stack depth, and index of the next push (R23). -/
  sp : Nat
  /-- Skip-nesting counter; skip mode is `sk > 0` (R24). -/
  sk : Nat
  /-- Shadow of `pc` (R25). -/
  inactivePc : Nat
  /-- Shadow of `sp` (R25). -/
  inactiveSp : Nat
  /-- Shadow of `sk` (R25). -/
  inactiveSk : Nat
  /-- Status register: opcode, cell value, mode (R26). -/
  sr : BitVec 24
  /-- The call stack's `sd` entries, entry 0 first (R32). -/
  stack : List Nat
  /-- The tape: (address, cell) pairs in canonical form; an unlisted cell is 0 (R51, R52). -/
  tape : List (Nat × Nat)
  /-- The application code store; an unlisted byte is 0x00 (R54, R55). -/
  acode : List Host.Cell
  /-- The supervisor code store; an unlisted byte is 0x00 (R54, R55). -/
  scode : List Host.Cell
  /-- The input bytes the attached I/O device has ready, oldest first (R58, R66; notes/assumptions/4.md). -/
  input : List Byte
  /-- How many input bytes the core has read (R254). -/
  consumed : Nat
  /-- The bytes sent by `.`, in the order sent (R57, R66, R254). -/
  output : List Byte
  /-- The answer of the step port (R100, R108, R110). -/
  answer : StepAnswer
  deriving DecidableEq, Repr

/-- A state together with the parameter of the machine that it belongs to: what the host's form of a step
takes, which has no argument for a parameter. DESIGN CHOICE (notes/assumptions/1.md): R4 makes the
configuration a parameter and not state, as `stepIn`, `serveIn` and `coreOf` of Machine/Parametric.lean
have it; those run on `CoreState`. -/
structure State extends CoreState where
  /-- The configuration (R4 to R13): a parameter, written by nothing, and no state of the core (R20). -/
  cfg : Config
  deriving DecidableEq, Repr

/-- A step ends in an `InternalError` (R213). Both are safe: the spec gives the same error, and no
state is reached. -/
inductive Fault where
  /-- Raised by the fetch stage when `sr.mode` is 3 to 255 (R102). Safe. -/
  | unsupportedMode
  /-- Raised by the fetch stage when the mode is Application or Supervisor and the state breaks an
  invariant of R35 (R109). Safe. -/
  | invariantViolated
  deriving DecidableEq, Repr

/-- A step has no meaning in the model. -/
inductive Refusal where
  /-- Raised by an arm of `exec` that has no meaning yet; safe. No arm raises it now. -/
  | notModelled (mnemonic : String)
  deriving DecidableEq, Repr

/-- The outcome of one step of this machine. -/
abbrev StepOutcome := Host.Outcome State Fault Refusal

/-- The machine right after construction with the configuration `cfg` (R36, R250), nothing loaded
(R52, R55). The call-stack entries have no reset value in the spec (R37): DESIGN CHOICE, 0
(notes/assumptions/2.md). -/
def State.initial (cfg : Config) : State :=
  { cfg := cfg, pc := 0, tp := 0, sp := 0, sk := 0, inactivePc := 0, inactiveSp := 0, inactiveSk := 0,
    sr := 0, stack := List.replicate cfg.sd 0, tape := [], acode := [], scode := [], input := [],
    consumed := 0, output := [], answer := .idle }

/-- The machine right after reset (R36), in the configuration of notes/assumptions/1.md. -/
def State.reset : State := State.initial Config.standard

end Sys2Proof.Machine
end

