-- ==== Sys2Proof/Machine/Memory.lean ====
section
/-! DEFINITION. The addressable store behind the tape and the two code stores (spec/20_memory.md R50 to
R55): a list of (address, unit) pairs with addresses strictly rising and no unit equal to what an
unlisted address reads as. `d` is that unlisted unit, which is 0 in all three stores (R52, R55). -/

namespace Sys2Proof.Machine

/-- Read one unit; an address nothing has written or loaded reads `d` and never faults (R52, R55). -/
def Memory.read {α : Type} (m : List (Nat × α)) (d : α) (a : Nat) : α :=
  match m with
  | [] => d
  | (k, v) :: rest => if k = a then v else Memory.read rest d a

/-- Put `v` at address `a`, keeping the addresses rising. -/
def Memory.put {α : Type} (m : List (Nat × α)) (a : Nat) (v : α) : List (Nat × α) :=
  match m with
  | [] => [(a, v)]
  | (k, w) :: rest =>
    if a < k then (a, v) :: (k, w) :: rest
    else if a = k then (a, v) :: rest
    else (k, w) :: Memory.put rest a v

/-- Remove address `a`. -/
def Memory.erase {α : Type} (m : List (Nat × α)) (a : Nat) : List (Nat × α) :=
  m.filter (fun e => e.1 != a)

/-- Write one unit (R53). Writing the unlisted unit removes the entry, so the form stays canonical. -/
def Memory.write {α : Type} [DecidableEq α] (m : List (Nat × α)) (d : α) (a : Nat) (v : α) :
    List (Nat × α) :=
  if v = d then Memory.erase m a else Memory.put m a v

/-- The canonical form: addresses strictly rising, no entry equal to what an unlisted address reads. -/
def Memory.wf {α : Type} [DecidableEq α] (d : α) (m : List (Nat × α)) : Bool :=
  decide (m.Pairwise (fun x y => x.1 < y.1)) && m.all (fun e => decide (e.2 ≠ d))

/-- The store `loadRaw` leaves when it replaces the contents by the units of a buffer, the first at
address `start` (R54, R71). -/
def Memory.ofList {α : Type} [DecidableEq α] (d : α) (start : Nat) : List α → List (Nat × α)
  | [] => []
  | v :: rest =>
    if v = d then Memory.ofList d (start + 1) rest
    else (start, v) :: Memory.ofList d (start + 1) rest

/-- The store that holds a map given as pairs, every unlisted address `d` (R71). Where a list names an
address twice, its first pair counts. -/
def Memory.ofPairs {α : Type} [DecidableEq α] (d : α) : List (Nat × α) → List (Nat × α)
  | [] => []
  | (a, v) :: rest => Memory.write (Memory.ofPairs d rest) d a v

end Sys2Proof.Machine
end

