-- ==== Sys2Proof/Machine/Params.lean ====
section
/-! DEFINITION. What is computed from a configuration (spec/00_scope.md section 4): its validity (R4 to
R10), the tape length (R6), the number of values of a cell (R7), and the register widths (R11). -/

namespace Sys2Proof

/-- The bounds as the document gives them (R5, R7 to R10). DESIGN CHOICE (notes/assumptions/18.md): the
numbers are unaudited, and the model takes them as transcribed. -/
def ConfigBounds.transcribed : ConfigBounds :=
  { tlMin := 10, tlMax := 127, twMin := 8, twMax := 128, twUnit := 8, nmMin := 2, nmMax := 3,
    sdMin := 1, ilMin := 32 }

/-- Every parameter lies in its range (R4): `tl` an exponent in its range or the sentinel (R5), `tw` a
multiple of its unit in its range (R7), `nm` in its range (R8), `sd` and `il` at least their least value
(R9, R10). -/
def Config.validWithin (b : ConfigBounds) (c : Config) : Bool :=
  (match c.tl with
    | none => true
    | some e => decide (b.tlMin ≤ e) && decide (e ≤ b.tlMax)) &&
  decide (b.twMin ≤ c.tw) && decide (c.tw ≤ b.twMax) && decide (c.tw % b.twUnit = 0) &&
  decide (b.nmMin ≤ c.nm) && decide (c.nm ≤ b.nmMax) && decide (b.sdMin ≤ c.sd) &&
  decide (b.ilMin ≤ c.il)

/-- The configuration is legal, within the transcribed bounds (R4; notes/assumptions/18.md). -/
def Config.valid (c : Config) : Bool := Config.validWithin ConfigBounds.transcribed c

/-- `TL`, the tape length: `2^tl`, or `none` for an unbounded tape (R6). -/
def Config.tapeLength (c : Config) : Option Nat :=
  match c.tl with
  | none => none
  | some e => some (2 ^ e)

/-- `2^tw`, the number of values a cell can hold; `tape_mask` is one less (R7). -/
def Config.cellValues (c : Config) : Nat := 2 ^ c.tw

/-- `ceil(log2(n + 1))`: the bits that hold every value from 0 to `n` (R11). -/
def bitsFor (n : Nat) : Nat := if n = 0 then 0 else Nat.log2 n + 1

/-- `PC_W`, the width of `pc`, `inactive_pc` and each call-stack entry (R11). -/
def Config.pcWidth (c : Config) : Nat := bitsFor c.il

/-- `SP_W`, the width of `sp` and `inactive_sp` (R11). -/
def Config.spWidth (c : Config) : Nat := bitsFor c.sd

/-- `SK_W`, the width of `sk` and `inactive_sk` (R11). -/
def Config.skWidth (c : Config) : Nat := bitsFor c.il

/-- `TP_W`, the width of `tp`: `tl` when finite, else `TP_W_UNBOUNDED` (R11, R13). -/
def Config.tpWidth (c : Config) : Option Nat :=
  match c.tl with
  | none => c.tpWUnbounded
  | some e => some e

/-- `a` is an address of the tape: below `TL`, or any natural when the tape is unbounded (R6, R22). -/
def Config.onTape (c : Config) (a : Nat) : Bool :=
  match Config.tapeLength c with
  | none => true
  | some n => decide (a < n)

end Sys2Proof
end

