-- ==== Sys2Proof/Machine/StatusReg.lean ====
section
/-! DEFINITION. The status register's fields (spec/10_state.md R26) and the mode it holds (R27, R28). -/

namespace Sys2Proof.Machine

/-- `sr[7:0]`, the faulting opcode byte (R26, R29). -/
def srOp (v : BitVec 24) : Byte := v.extractLsb' 0 8

/-- `sr[15:8]`, the faulting cell value (R26, R30). -/
def srCell (v : BitVec 24) : Byte := v.extractLsb' 8 8

/-- `sr[23:16]`, the mode ordinal (R26, R31). -/
def srMode (v : BitVec 24) : Byte := v.extractLsb' 16 8

/-- The ordinal of a mode (R26). -/
def Mode.ordinal : Mode → Byte
  | .application => 0
  | .supervisor => 1
  | .halt => 2

/-- The mode of an ordinal; 3 to 255 name no mode (R28). -/
def Mode.ofOrdinal (b : Byte) : Option Mode :=
  if b = 0 then some .application
  else if b = 1 then some .supervisor
  else if b = 2 then some .halt
  else none

/-- The packed register `op | (cell << 8) | (mode << 16)` (R26). -/
def packSr (op cell : Byte) (m : Mode) : BitVec 24 := m.ordinal ++ cell ++ op

/-- Write `sr.mode` and keep `sr.op` and `sr.cell` (R29, R30, R31). -/
def withMode (v : BitVec 24) (m : Mode) : BitVec 24 := packSr (srOp v) (srCell v) m

/-- The current mode is `sr.mode`; there is no separate mode register (R27). -/
def State.mode (s : State) : Option Mode := Mode.ofOrdinal (srMode s.sr)

end Sys2Proof.Machine
end

