-- ==== Sys2Proof/Machine/Operands.lean ====
section
/-! DEFINITION. The implicit operands of the instructions (spec/30_encoding.md R84): the cell at `tp`,
the values `+`, `-` and `,` write there (R140, R141, R181), the byte `.` sends (R180), the top of the
call stack (R151), and the code byte at `pc` (R103). -/

namespace Sys2Proof.Machine

/-- `MemRead(TAPE, a, tw)`; a never-written cell reads 0 (R52). -/
def State.tapeAt (s : State) (a : Nat) : Nat := Memory.read s.tape 0 a

/-- `cell`, the cell at `tp` (spec/00_scope.md section 5). -/
def State.cell (s : State) : Nat := s.tapeAt s.tp

/-- `(c + 1) & tape_mask`, the value `+` writes (R140, R142). -/
def State.cellPlusOne (s : State) : Nat := (s.cell + 1) % s.cfg.cellValues

/-- `(c - 1) & tape_mask = (c + 2^tw - 1) mod 2^tw`, the value `-` writes (R141, R142). -/
def State.cellMinusOne (s : State) : Nat := (s.cell + s.cfg.cellValues - 1) % s.cfg.cellValues

/-- `trunc_8(cell)`, the byte `.` sends (R57, R180) and a trap records (R30). -/
def State.cellByte (s : State) : Byte := trunc8 s.cell

/-- `zext_tw(b)`, the cell value of an input byte (R181): a byte fits every legal width (R7). -/
def inputCell (b : Byte) : Nat := b.toNat

/-- `stack[sp - 1]`, the most recent pushed address (R151). The guard of R109 keeps the index inside
the stack; outside it, a state no step accepts, this reads 0: DESIGN CHOICE (notes/assumptions/14.md). -/
def State.stackTop (s : State) : Nat := s.stack.getD (s.sp - 1) 0

/-- `MemRead(ACODE, a, 8)` or `MemRead(SCODE, a, 8)`; beyond the image it reads 0x00 (R55). -/
def State.codeAt (s : State) (space : CodeSpace) (a : Nat) : Byte :=
  match space with
  | .acode => Memory.read s.acode 0 a
  | .scode => Memory.read s.scode 0 a

end Sys2Proof.Machine
end

