-- ==== Sys2Proof/Machine/Flags.lean ====
section
/-! DEFINITION. The core has no flags register (spec/10_state.md R34). Here stand the conditions that
act as flags there (the loop condition and skip mode), the bound tests of the traps (R130, R131, R150,
R151), and the invariant guard of spec/40_step_engine.md R109. Nothing latches any of them. -/

namespace Sys2Proof.Machine

/-- Skip mode is exactly `sk > 0` (R24). -/
def State.skipping (s : State) : Bool := decide (0 < s.sk)

/-- The loop condition: the current cell is zero, read again each time (R34). -/
def State.cellIsZero (s : State) : Bool := decide (s.cell = 0)

/-- `TL ≠ ∞` and `tp = TL - 1` (R130). -/
def State.atTapeTop (s : State) : Bool :=
  match s.cfg.tapeLength with
  | none => false
  | some n => decide (s.tp + 1 = n)

/-- `tp = 0` (R131). -/
def State.atTapeBottom (s : State) : Bool := decide (s.tp = 0)

/-- `sp = sd` (R150). -/
def State.stackFull (s : State) : Bool := decide (s.sp = s.cfg.sd)

/-- `sp = 0` (R151). -/
def State.stackEmpty (s : State) : Bool := decide (s.sp = 0)

/-- The invariants of R35 that a step in Application or Supervisor needs (R109): `sp ≤ sd`, `tp < TL`,
`sk ≤ il`, `pc ≤ il`, the same bounds on the shadows, and every live stack entry below `il`. The call
stack has its `sd` entries (R32), and the configuration is legal, as R35 supposes and R4 ensures at
construction. R109 lists the first four, R35 asks for all: DEDUCED (notes/assumptions/7.md). -/
def State.invariantsHold (s : State) : Bool :=
  decide (s.sp ≤ s.cfg.sd) && s.cfg.onTape s.tp && decide (s.sk ≤ s.cfg.il) &&
  decide (s.pc ≤ s.cfg.il) && decide (s.inactiveSp ≤ s.cfg.sd) &&
  decide (s.inactivePc ≤ s.cfg.il) && decide (s.inactiveSk ≤ s.cfg.il) &&
  decide (s.stack.length = s.cfg.sd) && (s.stack.take s.sp).all (fun a => decide (a < s.cfg.il)) &&
  s.cfg.valid

end Sys2Proof.Machine
end

