-- ==== Sys2Proof/Machine/Ops.lean ====
section
/-! DEFINITION. The named operations every meaning is written with: tape, stack and I/O writes
(spec/20_memory.md, spec/43_loop_control.md), taking a trap and returning from one
(spec/60_exceptions.md R201, R202, R207, R208), and the end of a step: pc advance, cycles and the pair
returned (spec/40_step_engine.md R106 to R108). -/

namespace Sys2Proof.Machine

/-- `pc <- v`. -/
def State.setPc (s : State) (v : Nat) : State := { s with pc := v }

/-- `tp <- v`; the tape, the stack and the channel stay (R22). -/
def State.setTp (s : State) (v : Nat) : State := { s with tp := v }

/-- `sk <- v` (R24). -/
def State.setSk (s : State) (v : Nat) : State := { s with sk := v }

/-- What the step port answers the host (R70, R100). -/
def State.setAnswer (s : State) (a : StepAnswer) : State := { s with answer := a }

/-- `MemWrite(TAPE, tp, tw, v)`: the core writes the tape only at `tp` (R53). -/
def State.writeCell (s : State) (v : Nat) : State :=
  { s with tape := Memory.write s.tape 0 s.tp v }

/-- `IoWrite(b)`: the byte follows those sent before (R57, R66). -/
def State.sendByte (s : State) (b : Byte) : State := { s with output := s.output ++ [b] }

/-- The state after `IoRead()` has taken its byte, the bytes `rest` being left (R58, R254). -/
def State.takeInput (s : State) (rest : List Byte) : State :=
  { s with input := rest, consumed := s.consumed + 1 }

/-- `stack[sp] <- pc; sp <- sp + 1` (R150). -/
def State.pushPc (s : State) : State := { s with stack := s.stack.set s.sp s.pc, sp := s.sp + 1 }

/-- `sp <- sp - 1`; the entry stays where it is, above `sp` (R33, R151; notes/assumptions/2.md). -/
def State.popEntry (s : State) : State := { s with sp := s.sp - 1 }

/-- `sr.mode <- m`; `sr.op` and `sr.cell` unchanged (R29, R30). -/
def State.setMode (s : State) (m : Mode) : State := { s with sr := withMode s.sr m }

/-- `raise Trap(op, c)`: trap entry from Application (R201), a double fault in any other mode (R202).
`tp`, the tape, the stack entries and the I/O channel are not touched (R203, R212). -/
def State.trap (s : State) (op : Byte) (c : Nat) : State :=
  if s.mode = some .application then
    { s with
      inactivePc := s.pc, inactiveSp := s.sp, inactiveSk := s.sk, pc := 0, sp := 0, sk := 0,
      sr := packSr op (trunc8 c) .supervisor }
  else s.setMode .halt

/-- `ReturnToApplication()`: from Supervisor the shadows are restored and cleared (R207); in any other
mode nothing changes (R208). It is a host request and no step: `answer` is not written. -/
def State.returnToApplication (s : State) : State :=
  if s.mode = some .supervisor then
    { s with
      pc := s.inactivePc, sp := s.inactiveSp, sk := s.inactiveSk,
      inactivePc := 0, inactiveSp := 0, inactiveSk := 0, sr := withMode s.sr .application }
  else s

/-- The result classes whose step moves `pc` on (R107). -/
def ResultClass.advances : ResultClass → Bool
  | .regular => true
  | .nop => true
  | .skip => true
  | .controlFlow => false
  | .violation => false
  | .halt => false

/-- `cyclesSpent` of a result class (R108). -/
def ResultClass.cycles : ResultClass → Nat
  | .regular => 1
  | .nop => 0
  | .skip => 1
  | .controlFlow => 1
  | .violation => 1
  | .halt => 1

/-- The pc advancement rule (R107). -/
def State.advancePc (s : State) (r : ResultClass) : State :=
  if r.advances then s.setPc (s.pc + 1) else s

/-- The step ends with the result class `r`: pc advance (R107), then the pair `(1, cycles)` (R108). -/
def State.complete (s : State) (r : ResultClass) : StepOutcome :=
  .next ((s.advancePc r).setAnswer (.pair 1 r.cycles))

/-- A violation: the instruction `i` traps with the current cell and the step ends (R106, R200). -/
def State.violate (s : State) (i : Instr) : StepOutcome :=
  (s.trap (encodeByte i) s.cell).complete .violation

/-- The step does not complete: its read waits, and nothing changes but the port's answer (R58,
R110). -/
def State.wait (s : State) : StepOutcome := .next (s.setAnswer .waiting)

/-- Priority 1 of R104: in skip mode the step is a Skip (R105), otherwise the instruction's own effect.
Every meaning but those of `[`, `]` and NUL begins with it. -/
def State.unlessSkipping (s : State) (effect : StepOutcome) : StepOutcome :=
  if s.skipping then s.complete .skip else effect

end Sys2Proof.Machine
end

