-- ==== Sys2Proof/Machine/CellArithmetic.lean ====
section
/-! DEFINITION. The meanings of `+` and `-` (spec/42_cell_arithmetic.md). -/

namespace Sys2Proof.Machine

/-- `+`: increment the current cell modulo `2^tw` (R140). -/
def execInc (s : State) : StepOutcome :=
  s.unlessSkipping ((s.writeCell s.cellPlusOne).complete .regular)

/-- `-`: decrement the current cell modulo `2^tw` (R141). -/
def execDec (s : State) : StepOutcome :=
  s.unlessSkipping ((s.writeCell s.cellMinusOne).complete .regular)

end Sys2Proof.Machine
end

