-- ==== Sys2Proof/Machine/HaltComment.lean ====
section
/-! DEFINITION. The meanings of NUL and of a comment byte (spec/45_halt_and_comment.md). -/

namespace Sys2Proof.Machine

/-- NUL: halt, from any mode and at any skip depth; `pc` stays (R190). -/
def execNul (s : State) : StepOutcome := (s.setMode .halt).complete .halt

/-- A comment byte: nothing but the pc's advance, at no cycle (R191); a Skip in skip mode (R105). -/
def execComment (_b : Byte) (s : State) : StepOutcome := s.unlessSkipping (s.complete .nop)

end Sys2Proof.Machine
end

