-- ==== Sys2Proof/Machine/InputOutput.lean ====
section
/-! DEFINITION. The meanings of `.` and `,` (spec/44_io.md). -/

namespace Sys2Proof.Machine

/-- `.`: send the low 8 bits of the current cell (R180). -/
def execOutput (s : State) : StepOutcome :=
  s.unlessSkipping ((s.sendByte s.cellByte).complete .regular)

/-- What `,` does with the byte `b` it has read: it is written to the cell when `INPUT_WRITEBACK` is
true and discarded otherwise (R12, R181). -/
def State.storeInput (s : State) (b : Byte) : State :=
  if s.cfg.inputWriteback then s.writeCell (inputCell b) else s

/-- `,`: read one input byte, waiting until the host has supplied one (R181, R58, R110). -/
def execInput (s : State) : StepOutcome :=
  s.unlessSkipping
    (match s.input with
     | [] => s.wait
     | b :: rest => ((s.takeInput rest).storeInput b).complete .regular)

end Sys2Proof.Machine
end

