-- ==== Sys2Proof/Machine/LoopControl.lean ====
section
/-! DEFINITION. The meanings of `[` and `]` (spec/43_loop_control.md), which run in skip mode too. -/

namespace Sys2Proof.Machine

/-- `[`: nested skip, skip begin, trap on a full stack, or loop entry, tried in this order (R150). -/
def execLoopOpen (s : State) : StepOutcome :=
  if s.skipping then (s.setSk (s.sk + 1)).complete .skip
  else if s.cellIsZero then (s.setSk 1).complete .skip
  else if s.stackFull then s.violate .loopOpen
  else s.pushPc.complete .regular

/-- `]`: skip end while skipping; else trap on an empty stack, loop back while the cell is not zero, or
loop exit (R151). -/
def execLoopClose (s : State) : StepOutcome :=
  if s.skipping then
    (s.setSk (s.sk - 1)).complete (if s.sk = 1 then .regular else .skip)
  else if s.stackEmpty then s.violate .loopClose
  else if s.cellIsZero then s.popEntry.complete .regular
  else (s.popEntry.setPc s.stackTop).complete .controlFlow

end Sys2Proof.Machine
end

