-- ==== Sys2Proof/Machine/TapePointer.lean ====
section
/-! DEFINITION. The meanings of `>` and `<` (spec/41_tape_pointer.md). -/

namespace Sys2Proof.Machine

/-- `>`: move the tape pointer right, or trap at the upper bound (R130). -/
def execRight (s : State) : StepOutcome :=
  s.unlessSkipping
    (if s.atTapeTop then s.violate .right
     else (s.setTp (s.tp + 1)).complete .regular)

/-- `<`: move the tape pointer left, or trap at 0 (R131). -/
def execLeft (s : State) : StepOutcome :=
  s.unlessSkipping
    (if s.atTapeBottom then s.violate .left
     else (s.setTp (s.tp - 1)).complete .regular)

end Sys2Proof.Machine
end

