-- ==== Sys2Proof/Machine/Dispatch.lean ====
section
/-! DEFINITION. One arm per instruction, each a direct call of its meaning (spec/40_step_engine.md R104,
priorities 2 to 10; priority 1, the skip test, is in the meanings it applies to). -/

namespace Sys2Proof.Machine

def exec (i : Instr) (s : State) : Host.Outcome State Fault Refusal :=
  match i with
  | .nul => Sys2Proof.Machine.execNul s
  | .inc => Sys2Proof.Machine.execInc s
  | .input => Sys2Proof.Machine.execInput s
  | .dec => Sys2Proof.Machine.execDec s
  | .output => Sys2Proof.Machine.execOutput s
  | .left => Sys2Proof.Machine.execLeft s
  | .right => Sys2Proof.Machine.execRight s
  | .loopOpen => Sys2Proof.Machine.execLoopOpen s
  | .loopClose => Sys2Proof.Machine.execLoopClose s
  | .comment b => Sys2Proof.Machine.execComment b s

end Sys2Proof.Machine
end

