-- ==== Sys2Proof/Machine/Fetch.lean ====
section
/-! DEFINITION. What a step does before an instruction runs (spec/40_step_engine.md R101, R102, R103,
R109): the halted step, the choice of the code store, the invariant guard, the fetch and the decoding;
and the placing of a word where the next fetch reads it, for the host's probe. -/

namespace Sys2Proof.Machine

/-- What the fetch stage comes to. -/
inductive Fetched where
  /-- The mode is Halt: nothing is fetched (R101). -/
  | halted
  /-- An `InternalError` (R102, R109). -/
  | stopped (f : Fault)
  /-- The instruction at `pc` in the code store of the mode (R103). -/
  | instr (i : Instr)
  deriving DecidableEq, Repr

/-- Guard, then fetch and decode from the store `space` (R109, R103, R104). -/
def State.fetchFrom (s : State) (space : CodeSpace) : Fetched :=
  if s.invariantsHold then .instr (decodeByte (s.codeAt space s.pc)) else .stopped .invariantViolated

/-- The stages R101, R102, R109 and R103, in this order. -/
def State.fetchStage (s : State) : Fetched :=
  match s.mode with
  | some .halt => .halted
  | some .application => s.fetchFrom .acode
  | some .supervisor => s.fetchFrom .scode
  | none => .stopped .unsupportedMode

/-- A step in Halt returns `(0, 1)` and touches no register, store or channel (R101). -/
def State.haltedStep (s : State) : State := s.setAnswer (.pair 0 1)

/-- Store one byte in a code store, as a host load that changes this byte alone would. -/
def State.placeByte (s : State) (space : CodeSpace) (a : Nat) (b : Byte) : State :=
  match space with
  | .acode => { s with acode := Memory.write s.acode 0 a b }
  | .scode => { s with scode := Memory.write s.scode 0 a b }

/-- Store one byte where the next step fetches: at `pc`, in the supervisor store when the mode is
Supervisor, else in the application store (R102). -/
def State.placeAtPc (s : State) (b : Byte) : State :=
  if s.mode = some .supervisor then s.placeByte .scode s.pc b else s.placeByte .acode s.pc b

end Sys2Proof.Machine
end

