-- ==== Sys2Proof/Machine/Step.lean ====
section
/-! DEFINITION. One step of the core (spec/40_step_engine.md R100), and the placing of the host's probe
word. Everything a step does is in Machine/Fetch.lean and in the meanings. -/

namespace Sys2Proof.Machine

/-- `step()`: the halted step, an `InternalError`, or the fetched instruction's meaning (R100 to
R104). -/
def step (s : State) : Host.Outcome State Fault Refusal :=
  match s.fetchStage with
  | .halted => .next s.haltedStep
  | .stopped f => .fault f
  | .instr i => exec i s

/-- `s` with the instruction word `w` where the next step fetches. Every row is one byte (R80). It stands for
the host's load of a program (R252; notes/assumptions/9.md). -/
def State.withFetchWord (s : State) (_nbits w : Nat) : State := s.placeAtPc (BitVec.ofNat 8 w)

end Sys2Proof.Machine
end

