-- ==== Sys2Proof/Machine/Driver.lean ====
section
/-! DEFINITION. The host's multi-step drivers `run` and `runExact` (spec/60_exceptions.md R219). They
are host software outside the core (spec/00_scope.md R3), modelled beside it (notes/assumptions/12.md). -/

namespace Sys2Proof.Machine

/-- How a driver's loop ended. -/
inductive RunEnd where
  /-- The machine halted, or the budget is spent (R219). -/
  | finished
  /-- The last step waits for an input byte (R58). -/
  | waiting
  /-- The last step ended in an `InternalError` (R213). -/
  | internalError (f : Fault)
  /-- The last step has no meaning in the model. -/
  | refused (r : Refusal)
  /-- The bound on the number of steps was reached first; R219 says that it never is. -/
  | outOfFuel
  deriving DecidableEq, Repr

/-- What a driver returns: the totals it has summed, the last state, and why it ended. -/
structure RunReport (σ : Type) where
  steps : Nat
  cycles : Nat
  state : σ
  ended : RunEnd
  deriving DecidableEq, Repr

/-- The loop of `run`, on explicit fuel, with the totals so far (R219). -/
def runLoop (fuel maxCycles steps cycles : Nat) (s : State) : RunReport State :=
  match fuel with
  | 0 => ⟨steps, cycles, s, .outOfFuel⟩
  | fuel + 1 =>
    if s.mode ≠ some .halt ∧ cycles < maxCycles then
      match step s with
      | .next t =>
        match t.answer with
        | .pair ds dc => runLoop fuel maxCycles (steps + ds) (cycles + dc) t
        | .waiting => ⟨steps, cycles, t, .waiting⟩
        | .idle => ⟨steps, cycles, t, .waiting⟩
      | .fault f => ⟨steps, cycles, s, .internalError f⟩
      | .refused r => ⟨steps, cycles, s, .refused r⟩
    else ⟨steps, cycles, s, .finished⟩

/-- `run(maxCycles)`: at most `il` Nop steps in a row and one cycle for every other step bound the
number of steps (R219). -/
def run (maxCycles : Nat) (s : State) : RunReport State :=
  runLoop ((maxCycles + 1) * (s.cfg.il + 1)) maxCycles 0 0 s

/-- The loop of `runExact`, with the totals so far (R219). -/
def runExactLoop (n steps cycles : Nat) (s : State) : RunReport State :=
  match n with
  | 0 => ⟨steps, cycles, s, .finished⟩
  | n + 1 =>
    match step s with
    | .next t =>
      match t.answer with
      | .pair ds dc => runExactLoop n (steps + ds) (cycles + dc) t
      | .waiting => ⟨steps, cycles, t, .waiting⟩
      | .idle => ⟨steps, cycles, t, .waiting⟩
    | .fault f => ⟨steps, cycles, s, .internalError f⟩
    | .refused r => ⟨steps, cycles, s, .refused r⟩

/-- `runExact(n)`: call `step()` `n` times and sum the results (R219). -/
def runExact (n : Nat) (s : State) : RunReport State := runExactLoop n 0 0 s

end Sys2Proof.Machine
end

