-- ==== Sys2Proof/Machine/HostPort.lean ====
section
/-! DEFINITION. The host's side of the core (spec/60_exceptions.md R215 to R218, spec/20_memory.md R54,
R70, R71, spec/70_reset_and_hazards.md R250, R252): construction, the register access interface, the
loads, the return request, and every request of R218 as one operation. -/

namespace Sys2Proof.Machine

/-- How a host request fails; none changes the machine. -/
inductive HostError where
  /-- A parameter is out of its range; no processor is produced (R4, R214). -/
  | configurationError
  /-- The name is no register of R215 (R215, R216). -/
  | unknownRegister
  /-- The value would break an invariant (R217). -/
  | invalidValue
  /-- The code image is longer than `il` (R54). -/
  | imageTooLong
  /-- The tape image has an address off the tape or a value that is no cell (notes/assumptions/5.md). -/
  | invalidTapeImage
  /-- A raw byte buffer for a tape of cells wider than a byte: its layout is OPEN (R13, R71). -/
  | tapeLayoutOpen
  /-- A `,` step waits; only its byte can end the wait (R110, R218; notes/assumptions/13.md). -/
  | busy
  /-- An input byte is supplied while no `,` step waits (R218; notes/assumptions/13.md). -/
  | notWaiting
  deriving DecidableEq, Repr

/-- The registers the access interface names (R215). -/
inductive RegName where
  | pc
  | tp
  | sp
  | sk
  | sr
  | inactivePc
  | inactiveSp
  | inactiveSk
  deriving DecidableEq, Repr

/-- The register of a name; the names are exactly these eight (R215). -/
def RegName.ofString (name : String) : Option RegName :=
  if name = "pc" then some .pc
  else if name = "tp" then some .tp
  else if name = "sp" then some .sp
  else if name = "sk" then some .sk
  else if name = "sr" then some .sr
  else if name = "inactive_pc" then some .inactivePc
  else if name = "inactive_sp" then some .inactiveSp
  else if name = "inactive_sk" then some .inactiveSk
  else none

/-- A register's value; `sr` is the packed 24-bit number (R215, R26). -/
def State.readReg (s : State) : RegName → Nat
  | .pc => s.pc
  | .tp => s.tp
  | .sp => s.sp
  | .sk => s.sk
  | .sr => s.sr.toNat
  | .inactivePc => s.inactivePc
  | .inactiveSp => s.inactiveSp
  | .inactiveSk => s.inactiveSk

/-- `v` fits the width the configuration gives `tp` on an unbounded tape, where it gives one (R13,
R217). -/
def Config.fitsUnboundedTp (c : Config) (v : Nat) : Bool :=
  match c.tl, c.tpWUnbounded with
  | none, some w => decide (v < 2 ^ w)
  | _, _ => true

/-- The legal values of R217. -/
def State.legalReg (s : State) (r : RegName) (v : Nat) : Bool :=
  match r with
  | .pc => decide (v ≤ s.cfg.il)
  | .tp => s.cfg.onTape v && Config.fitsUnboundedTp s.cfg v
  | .sp => decide (v ≤ s.cfg.sd)
  | .sk => decide (v ≤ s.cfg.il)
  | .sr => decide (v < 2 ^ 24) && (Mode.ofOrdinal (srMode (BitVec.ofNat 24 v))).isSome
  | .inactivePc => decide (v ≤ s.cfg.il)
  | .inactiveSp => decide (v ≤ s.cfg.sd)
  | .inactiveSk => decide (v ≤ s.cfg.il)

/-- Write a register and nothing else; a write to `sr` writes all three fields (R216). -/
def State.writeReg (s : State) (r : RegName) (v : Nat) : State :=
  match r with
  | .pc => s.setPc v
  | .tp => s.setTp v
  | .sp => { s with sp := v }
  | .sk => s.setSk v
  | .sr => { s with sr := BitVec.ofNat 24 v }
  | .inactivePc => { s with inactivePc := v }
  | .inactiveSp => { s with inactiveSp := v }
  | .inactiveSk => { s with inactiveSk := v }

/-- `reg_get(name)` (R215). -/
def State.regGet (s : State) (name : String) : Except HostError Nat :=
  match RegName.ofString name with
  | none => .error .unknownRegister
  | some r => .ok (s.readReg r)

/-- `reg_set(name, v)` (R216), validated by R217. -/
def State.regSet (s : State) (name : String) (v : Nat) : Except HostError State :=
  match RegName.ofString name with
  | none => .error .unknownRegister
  | some r => if s.legalReg r v then .ok (s.writeReg r v) else .error .invalidValue

/-- `loadRaw(bytes)` on a code store: its contents are replaced, and an image longer than `il` is
refused (R54). -/
def State.loadCode (s : State) (space : CodeSpace) (image : List Byte) : Except HostError State :=
  if image.length ≤ s.cfg.il then
    match space with
    | .acode => .ok { s with acode := Memory.ofList 0 0 image }
    | .scode => .ok { s with scode := Memory.ofList 0 0 image }
  else .error .imageTooLong

/-- An entry of a tape image names a cell of the tape and a value a cell can hold (R7, R22, R71). -/
def Config.validCell (c : Config) (e : Nat × Nat) : Bool :=
  c.onTape e.1 && decide (e.2 < c.cellValues)

/-- The host loads the tape with `TAPE_IMAGE`, a map from address to cell value, every unlisted
address 0 (R13, R71). -/
def State.loadTape (s : State) (image : List (Nat × Nat)) : Except HostError State :=
  if image.all (Config.validCell s.cfg) then .ok { s with tape := Memory.ofPairs 0 image }
  else .error .invalidTapeImage

/-- Byte `i` of a raw buffer becomes cell `i` (R71). -/
def cellsOfBytes (bytes : List Byte) : List (Nat × Nat) :=
  bytes.zipIdx.map (fun e => (e.2, e.1.toNat))

/-- `loadRaw(bytes)` on the tape: for `tw = 8` byte `i` becomes cell `i`; for wider cells the layout is
OPEN, and the host gives a `TAPE_IMAGE` instead (R71). -/
def State.loadTapeBytes (s : State) (bytes : List Byte) : Except HostError State :=
  if s.cfg.tw = 8 then s.loadTape (cellsOfBytes bytes) else .error .tapeLayoutOpen

/-- Reset by construction (R250): the configuration is validated, then the call stack is sized and
every register takes its reset value. -/
def construct (c : Config) : Except HostError State :=
  if c.valid then .ok (State.initial c) else .error .configurationError

/-- The `reset` request: steps 2 and 3 of construction again, the stores and the I/O device left as
they are (R250). The call-stack entries, left unspecified, are 0 again (notes/assumptions/2.md). -/
def State.restart (s : State) : State :=
  { State.initial s.cfg with
    tape := s.tape, acode := s.acode, scode := s.scode, input := s.input, consumed := s.consumed,
    output := s.output }

/-- The boot sequence of R252: construct, load the two code images, load the tape, attach an I/O device
that has the bytes `device` ready. -/
def boot (c : Config) (acode scode : List Byte) (tape : List (Nat × Nat)) (device : List Byte) :
    Except HostError State := do
  let s ← construct c
  let s ← s.loadCode .acode acode
  let s ← s.loadCode .scode scode
  let s ← s.loadTape tape
  return { s with input := device }

/-- The host's interactions with the core: these and no others (R218). -/
inductive Request where
  | reset
  | loadCode (space : CodeSpace) (image : List Byte)
  | loadTape (image : List (Nat × Nat))
  | loadTapeBytes (bytes : List Byte)
  | step
  | supply (b : Byte)
  | takeOutput
  | ret
  | regGet (name : String)
  | regSet (name : String) (v : Nat)
  deriving DecidableEq, Repr

/-- What the host gets back from a request. -/
inductive Reply where
  /-- The request is done. -/
  | done
  /-- The value of a register (R215). -/
  | value (v : Nat)
  /-- The bytes sent so far, in order (R57). -/
  | bytes (sent : List Byte)
  /-- A step was taken or resumed: the pair it returned, or that it waits (R100, R110). -/
  | stepped (a : StepAnswer)
  /-- The request failed and nothing changed. -/
  | failed (e : HostError)
  /-- The step ended in an `InternalError` and nothing changed (R213). -/
  | internalError (f : Fault)
  /-- The step has no meaning in the model; no step refuses now. -/
  | refused (r : Refusal)
  deriving DecidableEq, Repr

/-- Take one step on the host's behalf; where it ends in an error the state stays `s` (R213). -/
def State.serveStep (s : State) : State × Reply :=
  match Sys2Proof.Machine.step s with
  | .next t => (t, .stepped t.answer)
  | .fault f => (s, .internalError f)
  | .refused r => (s, .refused r)

/-- A request's result as the host sees it: the new state, or the error and the old state. -/
def State.orFailed (s : State) : Except HostError State → State × Reply
  | .ok t => (t, .done)
  | .error e => (s, .failed e)

/-- A register read as the host sees it; it changes nothing (R215). -/
def State.valueReply (s : State) : Except HostError Nat → State × Reply
  | .ok v => (s, .value v)
  | .error e => (s, .failed e)

/-- A step waits for an input byte (R110). -/
def State.isWaiting (s : State) : Bool := decide (s.answer = .waiting)

/-- A byte the host supplies reaches the I/O device after those it already has (R66). -/
def State.withInput (s : State) (b : Byte) : State := { s with input := s.input ++ [b] }

/-- Supply an input byte: the waiting step completes with it (R58). While no step waits the host may not
supply one (R218); that this fails as `notWaiting` is the model's: DESIGN CHOICE
(notes/assumptions/13.md). -/
def State.serveSupply (s : State) (b : Byte) : State × Reply :=
  if s.isWaiting then (s.withInput b).serveStep else (s, .failed .notWaiting)

/-- A request that the host may make only when no step waits (R110). That it then fails as `busy` is the
model's: DESIGN CHOICE (notes/assumptions/13.md). -/
def State.betweenSteps (s : State) (r : State × Reply) : State × Reply :=
  if s.isWaiting then (s, .failed .busy) else r

/-- One interaction of the host with the core (R218). -/
def serve (q : Request) (s : State) : State × Reply :=
  match q with
  | .reset => s.betweenSteps (s.restart, .done)
  | .loadCode space image => s.betweenSteps (s.orFailed (s.loadCode space image))
  | .loadTape image => s.betweenSteps (s.orFailed (s.loadTape image))
  | .loadTapeBytes bytes => s.betweenSteps (s.orFailed (s.loadTapeBytes bytes))
  | .step => s.betweenSteps s.serveStep
  | .supply b => s.serveSupply b
  | .takeOutput => (s, .bytes s.output)
  | .ret => s.betweenSteps (s.returnToApplication, .done)
  | .regGet name => s.betweenSteps (s.valueReply (s.regGet name))
  | .regSet name v => s.betweenSteps (s.orFailed (s.regSet name v))

/-- The state after a session of requests, the first one first (R218). -/
def serveAll : List Request → State → State
  | [], s => s
  | q :: rest, s => serveAll rest (serve q s).1

end Sys2Proof.Machine
end

