-- ==== Sys2Proof/Machine/Parametric.lean ====
section
/-! DEFINITION. The machine as a function of its configuration, as spec/00_scope.md R4 has it: a parameter
and not state. Each function here takes the configuration `c` as an argument and runs on `CoreState`, which
holds none; the meanings are those of the host's form, which brings the parameter along in `State`. -/

namespace Sys2Proof.Machine

/-- The state `k` of the machine whose parameter is `c`, in the host's form. -/
def CoreState.under (k : CoreState) (c : Config) : State := { toCoreState := k, cfg := c }

/-- An outcome in the host's form, without the parameter. -/
def dropParameter (o : StepOutcome) : Host.Outcome CoreState Fault Refusal :=
  match o with
  | .next t => .next t.toCoreState
  | .fault f => .fault f
  | .refused r => .refused r

/-- A driver's report in the host's form, without the parameter. -/
def RunReport.dropParameter (r : RunReport State) : RunReport CoreState :=
  { steps := r.steps, cycles := r.cycles, state := r.state.toCoreState, ended := r.ended }

/-- `step()` of the machine whose parameter is `c` (R4, R100). -/
def stepIn (c : Config) (k : CoreState) : Host.Outcome CoreState Fault Refusal :=
  dropParameter (step (k.under c))

/-- One interaction of the host with the machine whose parameter is `c` (R4, R218). -/
def serveIn (c : Config) (q : Request) (k : CoreState) : CoreState × Reply :=
  ((serve q (k.under c)).1.toCoreState, (serve q (k.under c)).2)

/-- The state after a session of requests to the machine whose parameter is `c` (R4, R218). -/
def serveAllIn (c : Config) : List Request → CoreState → CoreState
  | [], k => k
  | q :: rest, k => serveAllIn c rest (serveIn c q k).1

/-- `run(maxCycles)` on the machine whose parameter is `c` (R4, R219). -/
def runIn (c : Config) (maxCycles : Nat) (k : CoreState) : RunReport CoreState :=
  (run maxCycles (k.under c)).dropParameter

/-- `runExact(n)` on the machine whose parameter is `c` (R4, R219). -/
def runExactIn (c : Config) (n : Nat) (k : CoreState) : RunReport CoreState :=
  (runExact n (k.under c)).dropParameter

/-- The machine of the configuration `c`. It is validated once, here; with a parameter out of its range
there is no machine (R4, R214, R250). -/
def coreOf (c : Config) : Except HostError Host.Core :=
  if c.valid then
    .ok { State := CoreState, Fault := Fault, Refusal := Refusal, step := stepIn c,
          reset := (State.initial c).toCoreState }
  else .error .configurationError

end Sys2Proof.Machine
end

