-- ==== Sys2Proof/Safety.lean ====
section
/-! DEFINITION. What counts as a state of a valid machine (spec/10_state.md R35), in the terms the
statements use: `SessionInv` is kept by every interaction of the host (R218), `RunInv` by every step,
trap, return, load and reset. -/

namespace Sys2Proof.Machine

/-- What holds in every state a host can bring the machine to from a valid construction (R35, R218).
`sk` may pass `il` by one here: R217 lets a host write `sk = il` anywhere, and a `[` then counts on;
the guard of R109 refuses the next step (DEDUCED, notes/assumptions/11.md). -/
structure SessionInv (s : State) : Prop where
  /-- The configuration is valid (R4). -/
  cfgValid : s.cfg.valid = true
  /-- `pc ≤ il` (R35). -/
  pcLe : s.pc ≤ s.cfg.il
  /-- `0 ≤ tp < TL` (R35). -/
  tpOn : s.cfg.onTape s.tp = true
  /-- `sp ≤ sd` (R35). -/
  spLe : s.sp ≤ s.cfg.sd
  /-- `sk ≤ il`, or one more after a host's write. -/
  skLe : s.sk ≤ s.cfg.il + 1
  /-- `inactive_pc ≤ il` (R35). -/
  inactivePcLe : s.inactivePc ≤ s.cfg.il
  /-- `inactive_sp ≤ sd` (R35). -/
  inactiveSpLe : s.inactiveSp ≤ s.cfg.sd
  /-- `inactive_sk ≤ il` (R35). -/
  inactiveSkLe : s.inactiveSk ≤ s.cfg.il
  /-- `sr.mode ∈ {0, 1, 2}` (R35). -/
  modeLegal : s.mode.isSome = true
  /-- The call stack has `sd` entries (R32). -/
  stackSized : s.stack.length = s.cfg.sd
  /-- Every entry is below `il`; R35 says so of the live ones. -/
  stackBelow : ∀ a ∈ s.stack, a < s.cfg.il
  /-- The tape is in canonical form. -/
  tapeWf : Memory.wf 0 s.tape = true
  /-- Every written cell is on the tape (R22). -/
  tapeOn : ∀ e ∈ s.tape, s.cfg.onTape e.1 = true
  /-- Every cell holds a value below `2^tw` (R7). -/
  tapeCells : ∀ e ∈ s.tape, e.2 < s.cfg.cellValues
  /-- The application code store is in canonical form. -/
  acodeWf : Memory.wf 0 s.acode = true
  /-- Its image lies below `il` (R54). -/
  acodeBelow : ∀ e ∈ s.acode, e.1 < s.cfg.il
  /-- The supervisor code store is in canonical form. -/
  scodeWf : Memory.wf 0 s.scode = true
  /-- Its image lies below `il` (R54). -/
  scodeBelow : ∀ e ∈ s.scode, e.1 < s.cfg.il

/-- The invariant of every state reached by steps, traps, returns, loads and resets from a valid
configuration (R35). `sk ≤ il` follows from `sk ≤ pc`, which is what the argument of R153 shows. -/
structure RunInv (s : State) : Prop extends SessionInv s where
  /-- While skipping, `pc` has passed every counted bracket (R153). -/
  skLePc : s.sk ≤ s.pc
  /-- The saved pair too (R201 saves `sk = 0`, by R155). -/
  inactiveSkLePc : s.inactiveSk ≤ s.inactivePc

/-- The byte a step in Application or Supervisor fetches: at `pc`, in the store of the mode (R102,
R103). -/
def State.fetchedByte (s : State) : Byte :=
  if s.mode = some .supervisor then s.codeAt .scode s.pc else s.codeAt .acode s.pc

/-- The instruction such a step executes (R104). -/
def State.fetched (s : State) : Instr := decodeByte s.fetchedByte

/-- The four trap causes, with the conditions of R200's table; all need `sk = 0` (R155). -/
def State.TrapCause (s : State) : Prop :=
  s.sk = 0 ∧
    ((s.fetched = .right ∧ ∃ e, s.cfg.tl = some e ∧ s.tp + 1 = 2 ^ e) ∨
     (s.fetched = .left ∧ s.tp = 0) ∨
     (s.fetched = .loopOpen ∧ s.cell ≠ 0 ∧ s.sp = s.cfg.sd) ∨
     (s.fetched = .loopClose ∧ s.sp = 0))

end Sys2Proof.Machine
end

