-- ==== Sys2Proof/Certificates/Slice0/Obligations.lean ====
section
/-! DEFINITION. The statements for the provers. Each docstring names the rule of spec/ it formalises;
OBLIGATIONS.json lists them. The few shorthands below write a rule's own formula once; they use no
operation of the machine. -/

namespace Sys2Proof.Spec

open Sys2Proof Sys2Proof.Machine

/-- `op | (trunc_8(c) << 8) | (mode << 16)`, as R26 and R201 write it. -/
def srNumber (op c mode : Nat) : BitVec 24 :=
  BitVec.ofNat 24 (op ||| ((c % 256) <<< 8) ||| (mode <<< 16))

/-- `sr` with its mode field set to `mode` and its low 16 bits kept (R26, R29, R30). -/
def srWithMode (v : BitVec 24) (mode : Nat) : BitVec 24 :=
  BitVec.ofNat 24 (v.toNat % 2 ^ 16 + mode * 2 ^ 16)

/-- The state trap entry from Application leaves: R201's assignments, one by one. -/
def trapEntered (op c : Nat) (s : State) : State :=
  { s with
    inactivePc := s.pc, inactiveSp := s.sp, inactiveSk := s.sk, pc := 0, sp := 0, sk := 0,
    sr := srNumber op c 1 }

/-- The state with `sr.mode <- Halt` and nothing else written (R190, R202). -/
def halted (s : State) : State := { s with sr := srWithMode s.sr 2 }

/-- The state with `pc <- pc + 1`, the step having returned `(1, cycles)` (R107, R108). -/
def advanced (cycles : Nat) (s : State) : State :=
  { s with pc := s.pc + 1, answer := .pair 1 cycles }

/-- The state as it is, the step having returned `(1, 1)` (R107, R108). -/
def stayed (s : State) : State := { s with answer := .pair 1 1 }

end Sys2Proof.Spec

open Sys2Proof Sys2Proof.Machine Sys2Proof.Spec

/-! ### Encoding -/

/-- The nine opcode bytes of R81's table. All but 0x00 and 0x3E are ASCII codes that the spec itself takes
from general knowledge (D25; notes/assumptions/10.md). -/
def Obligations.OpcodeBytesDecode : Prop :=
  decodeByte 0b00000000 = .nul ∧ decodeByte 0b00101011 = .inc ∧ decodeByte 0b00101100 = .input ∧
  decodeByte 0b00101101 = .dec ∧ decodeByte 0b00101110 = .output ∧ decodeByte 0b00111100 = .left ∧
  decodeByte 0b00111110 = .right ∧ decodeByte 0b01011011 = .loopOpen ∧
  decodeByte 0b01011101 = .loopClose

/-- R82: exactly the other 247 bytes are comments, and each executes as a no-op. Which bytes are opcodes
is R81's table (D25; notes/assumptions/10.md). -/
def Obligations.CommentsAreTheOtherBytes : Prop :=
  (∀ b : Byte, decodeByte b = .comment b ↔
    b ∉ ([0x00, 0x2B, 0x2C, 0x2D, 0x2E, 0x3C, 0x3E, 0x5B, 0x5D] : List Byte)) ∧
  ((List.range 256).filter
    (fun n => decodeByte (BitVec.ofNat 8 n) == .comment (BitVec.ofNat 8 n))).length = 247 ∧
  ∀ (b : Byte) (s : State), s.sk = 0 → decodeByte b = .comment b →
    exec (decodeByte b) s = .next (advanced 0 s)

/-- R80, R87: one byte an instruction; decoding an encoded well-formed instruction gives it back
whatever follows it, and encoding a decoded byte gives that byte back. -/
def Obligations.DecodeEncodeRoundTrip : Prop :=
  (∀ (i : Instr) (rest : List Byte), i.wellFormed = true → decode (encode i ++ rest) = .ok (i, rest)) ∧
  (∀ (b : Byte) (rest : List Byte), ∃ i,
    decode (b :: rest) = .ok (i, rest) ∧ i.wellFormed = true ∧ encode i = [b]) ∧
  (∀ i : Instr, (encode i).length = 1) ∧
  ∀ i j : Instr, i.wellFormed = true → j.wellFormed = true → encode i = encode j → i = j

/-! ### Construction and reset -/

/-- R214: construction fails exactly when a parameter is out of its range (the ranges of R5, R7 to R10),
and no request of the host fails so afterwards. Nothing changes the configuration (R4). -/
def Obligations.ConstructionChecksConfig : Prop :=
  (∀ c : Config,
    ((∀ e, c.tl = some e → 10 ≤ e ∧ e ≤ 127) ∧ (8 ≤ c.tw ∧ c.tw ≤ 128 ∧ 8 ∣ c.tw) ∧
      (c.nm = 2 ∨ c.nm = 3) ∧ 1 ≤ c.sd ∧ 32 ≤ c.il →
      ∃ s, construct c = .ok s ∧ s.cfg = c) ∧
    (¬ ((∀ e, c.tl = some e → 10 ≤ e ∧ e ≤ 127) ∧ (8 ≤ c.tw ∧ c.tw ≤ 128 ∧ 8 ∣ c.tw) ∧
      (c.nm = 2 ∨ c.nm = 3) ∧ 1 ≤ c.sd ∧ 32 ≤ c.il) →
      construct c = .error .configurationError)) ∧
  ∀ (q : Request) (s : State), (serve q s).1.cfg = s.cfg ∧
    (serve q s).2 ≠ .failed .configurationError

/-- R36: every register zero and the mode Application after construction. -/
def Obligations.ResetZeroesRegisters : Prop :=
  ∀ (c : Config) (s : State), construct c = .ok s →
    s.pc = 0 ∧ s.tp = 0 ∧ s.sp = 0 ∧ s.sk = 0 ∧ s.inactivePc = 0 ∧ s.inactiveSp = 0 ∧
    s.inactiveSk = 0 ∧ s.sr = 0x000000 ∧ srOp s.sr = 0 ∧ srCell s.sr = 0 ∧
    s.mode = some .application

/-- `RunInv` holds after construction, in every valid configuration and in that of `State.reset`, which is
the model's choice (notes/assumptions/1.md). Its bound on every call-stack entry (R35 names the live ones
alone, and at reset there is none) holds because the model sets the entries that R37 leaves unspecified to
0, which is its choice too (notes/assumptions/2.md). -/
def Obligations.ResetMeetsInv : Prop :=
  RunInv State.reset ∧ ∀ (c : Config) (s : State), construct c = .ok s → RunInv s

/-- R250: construction validates, sizes the call stack and resets every register; the reset request
does the last two again and leaves the tape, the code stores and the I/O device as they are. -/
def Obligations.ResetRequestRestoresCore : Prop :=
  (∀ c : Config, Config.valid c = false → construct c = .error .configurationError) ∧
  (∀ c : Config, Config.valid c = true → ∃ s, construct c = .ok s ∧ s.stack.length = c.sd ∧
    s.pc = 0 ∧ s.tp = 0 ∧ s.sp = 0 ∧ s.sk = 0 ∧ s.inactivePc = 0 ∧ s.inactiveSp = 0 ∧
    s.inactiveSk = 0 ∧ s.sr = 0) ∧
  ∀ s : State, s.answer ≠ .waiting → ∃ t, serve .reset s = (t, .done) ∧
    t.cfg = s.cfg ∧ t.stack.length = s.cfg.sd ∧ t.pc = 0 ∧ t.tp = 0 ∧ t.sp = 0 ∧ t.sk = 0 ∧
    t.inactivePc = 0 ∧ t.inactiveSp = 0 ∧ t.inactiveSk = 0 ∧ t.sr = 0 ∧ t.tape = s.tape ∧
    t.acode = s.acode ∧ t.scode = s.scode ∧ t.input = s.input ∧ t.consumed = s.consumed ∧
    t.output = s.output

/-- R251: the first step after boot executes the first byte of the application image, or NUL where the
image is empty; so does the first step after a reset request of a machine with a legal configuration,
with the image then loaded. -/
def Obligations.FirstStepRunsApplicationByteZero : Prop :=
  (∀ (c : Config) (acode scode : List Byte) (tape : List (Nat × Nat)) (device : List Byte) (s : State),
    boot c acode scode tape device = .ok s →
    s.pc = 0 ∧ s.mode = some .application ∧ step s = exec (decodeByte (acode.getD 0 0)) s) ∧
  ∀ s t : State, s.cfg.valid = true → serve .reset s = (t, .done) →
    t.pc = 0 ∧ t.mode = some .application ∧ step t = exec (decodeByte (Memory.read s.acode 0 0)) t

/-! ### The step engine -/

/-- R102, R103: a guarded step in Application executes the byte of `ACODE` at `pc`, one in Supervisor
the byte of `SCODE`, and a mode that is none of the three is an internal error. -/
def Obligations.StepRunsDecodedInstruction : Prop :=
  ∀ s : State,
    (s.mode = some .application → s.invariantsHold = true →
      step s = exec (decodeByte (Memory.read s.acode 0 s.pc)) s) ∧
    (s.mode = some .supervisor → s.invariantsHold = true →
      step s = exec (decodeByte (Memory.read s.scode 0 s.pc)) s) ∧
    (3 ≤ (srMode s.sr).toNat → step s = .fault .unsupportedMode)

/-- R101: a step in Halt returns `(0, 1)` and changes no register, store or channel, whatever the rest
of the state holds. -/
def Obligations.HaltedStepTouchesNothing : Prop :=
  ∀ s : State, s.mode = some .halt → step s = .next { s with answer := .pair 0 1 }

/-- R213: the two internal errors, each exactly from the states it names; the host is told, nothing
changes, and a repeated step raises it again. No step is refused. -/
def Obligations.InternalErrorsChangeNothing : Prop :=
  (∀ s : State, step s = .fault .unsupportedMode ↔
    (s.mode ≠ some .application ∧ s.mode ≠ some .supervisor ∧ s.mode ≠ some .halt)) ∧
  (∀ s : State, step s = .fault .invariantViolated ↔
    ((s.mode = some .application ∨ s.mode = some .supervisor) ∧ s.invariantsHold = false)) ∧
  (∀ (s : State) (f : Fault), s.answer ≠ .waiting → step s = .fault f →
    serve .step s = (s, .internalError f) ∧ serve .step (serve .step s).1 = (s, .internalError f)) ∧
  ∀ (s : State) (r : Refusal), step s ≠ .refused r

/-- R109: the four checks of the guard, made before the fetch, and no guard in an architectural run. -/
def Obligations.GuardStopsBrokenStates : Prop :=
  (∀ s : State, s.mode = some .application ∨ s.mode = some .supervisor →
    (s.cfg.sd < s.sp ∨ (∃ e, s.cfg.tl = some e ∧ 2 ^ e ≤ s.tp) ∨ s.cfg.il < s.sk ∨
      s.cfg.il < s.pc) →
    ∀ acode scode : List Host.Cell,
      step { s with acode := acode, scode := scode } = .fault .invariantViolated) ∧
  (∀ s : State, RunInv s → ∃ t, step s = .next t)

/-- The whole guard: R35's bounds, the `sd` entries of the call stack (R32), and a legal configuration
(R4), without which there is no machine. That more is checked than R109 lists is the model's reading
(notes/assumptions/7.md). -/
def Obligations.GuardIsTheInvariantTable : Prop :=
  ∀ s : State, s.invariantsHold = true ↔
    s.sp ≤ s.cfg.sd ∧ (∀ e, s.cfg.tl = some e → s.tp < 2 ^ e) ∧ s.sk ≤ s.cfg.il ∧
    s.pc ≤ s.cfg.il ∧ s.inactiveSp ≤ s.cfg.sd ∧ s.inactivePc ≤ s.cfg.il ∧
    s.inactiveSk ≤ s.cfg.il ∧ s.stack.length = s.cfg.sd ∧
    (∀ j, j < s.sp → ∃ a, s.stack[j]? = some a ∧ a < s.cfg.il) ∧ s.cfg.valid = true

/-- R105: in skip mode every instruction but `[`, `]` and NUL only moves `pc` on, at 1 cycle; the two
brackets count, and NUL halts. -/
def Obligations.SkipOnlyMovesPc : Prop :=
  ∀ (i : Instr) (s : State), 0 < s.sk →
    (i ≠ .loopOpen → i ≠ .loopClose → i ≠ .nul → exec i s = .next (advanced 1 s)) ∧
    (i = .loopOpen → exec i s = .next (advanced 1 { s with sk := s.sk + 1 })) ∧
    (i = .loopClose → exec i s = .next (advanced 1 { s with sk := s.sk - 1 })) ∧
    (i = .nul → exec i s = .next (stayed (halted s)))

/-- R152: the skip machine's table, and that skipping changes no stack, tape, pointer or channel. -/
def Obligations.SkipMachineTable : Prop :=
  (∀ s : State, s.sk = 0 → s.tapeAt s.tp = 0 →
    exec .loopOpen s = .next (advanced 1 { s with sk := 1 })) ∧
  (∀ (i : Instr) (s t : State), s.sk = 0 → (i = .loopOpen → s.tapeAt s.tp ≠ 0) →
    exec i s = .next t → t.sk = 0) ∧
  (∀ s : State, 0 < s.sk → exec .loopOpen s = .next (advanced 1 { s with sk := s.sk + 1 })) ∧
  (∀ s : State, 0 < s.sk → exec .loopClose s = .next (advanced 1 { s with sk := s.sk - 1 })) ∧
  (∀ s : State, 0 < s.sk → exec .nul s = .next (stayed (halted s))) ∧
  ∀ (i : Instr) (s : State), 0 < s.sk → ∃ t, exec i s = .next t ∧ t.stack = s.stack ∧
    t.sp = s.sp ∧ t.tp = s.tp ∧ t.tape = s.tape ∧ t.input = s.input ∧ t.consumed = s.consumed ∧
    t.output = s.output ∧
    (i ≠ .loopOpen → i ≠ .loopClose → i ≠ .nul → t = advanced 1 s)

/-- R108: the pair a step returns. A step that waits for its input byte has returned none yet (R110). -/
def Obligations.CyclesOfAStep : Prop :=
  ∀ s t : State, step s = .next t → t.answer ≠ .waiting →
    t.answer =
      if s.mode = some .halt then .pair 0 1
      else if s.sk = 0 ∧ s.fetched = .comment s.fetchedByte then .pair 1 0
      else .pair 1 1

/-- R107: where `pc` goes after a step that completes and was not halted. -/
def Obligations.PcAfterAStep : Prop :=
  ∀ s t : State, s.mode ≠ some .halt → step s = .next t → t.answer ≠ .waiting →
    t.pc =
      if t.mode = some .halt then s.pc
      else if s.mode = some .application ∧ t.mode = some .supervisor then 0
      else if s.sk = 0 ∧ s.fetched = .loopClose ∧ s.tapeAt s.tp ≠ 0 then s.stack.getD (s.sp - 1) 0
      else s.pc + 1

/-- R35 for steps: the invariant holds after every step from a state in which it holds. -/
def Obligations.StepKeepsInv : Prop :=
  ∀ s t : State, RunInv s → step s = .next t → RunInv t

/-- R35 for a whole session of the host's requests, in any order, from any state that meets `SessionInv`,
and `RunInv` for a return, a reset and a code load. Three clauses rest on the model's choices: `sk` may pass
`il` by one, after a host's own write of `sk` (R217; notes/assumptions/11.md); every call-stack entry stays
below `il` over a reset, because it then holds 0 (notes/assumptions/2.md); and a tape load keeps every cell
on the tape and in its range, because any other image is refused (notes/assumptions/5.md). -/
def Obligations.SessionKeepsSessionInv : Prop :=
  (∀ (qs : List Request) (s : State), SessionInv s → SessionInv (serveAll qs s)) ∧
  ∀ s : State, RunInv s → RunInv (serve .ret s).1 ∧ RunInv (serve .reset s).1 ∧
    ∀ (space : CodeSpace) (image : List Byte), RunInv (serve (.loadCode space image) s).1

/-- Every request of the host but a register write keeps `RunInv`: a step, a supply, every load, a return
and a reset (R35). It rests on the model's choices of the entries at reset (notes/assumptions/2.md) and of
the tape images that are refused (notes/assumptions/5.md). -/
def Obligations.RequestsKeepRunInv : Prop :=
  ∀ (q : Request) (s : State), RunInv s → (∀ name v, q ≠ .regSet name v) → RunInv (serve q s).1

/-- R4: the configuration is a parameter of the machine and not state. It is validated once, at
construction, and an illegal one gives no machine; every step, request, session and run in the host's form
is the parametric one, on a state that holds no configuration, with the same parameter before and after.
That the host's form brings the parameter along is the model's choice (notes/assumptions/1.md). -/
def Obligations.ConfigurationIsAParameter : Prop :=
  (∀ c : Config, c.valid = false → coreOf c = .error .configurationError) ∧
  (∀ c : Config, c.valid = true →
    construct c = .ok ((State.initial c).toCoreState.under c) ∧
    coreOf c = .ok { State := CoreState, Fault := Fault, Refusal := Refusal, step := stepIn c,
                     reset := (State.initial c).toCoreState }) ∧
  (∀ (c : Config) (k : CoreState),
    (∀ k', stepIn c k = .next k' ↔ step (k.under c) = .next (k'.under c)) ∧
    (∀ f, stepIn c k = .fault f ↔ step (k.under c) = .fault f)) ∧
  (∀ (c : Config) (q : Request) (k : CoreState),
    serve q (k.under c) = ((serveIn c q k).1.under c, (serveIn c q k).2)) ∧
  (∀ (c : Config) (qs : List Request) (k : CoreState),
    serveAll qs (k.under c) = (serveAllIn c qs k).under c) ∧
  ∀ (c : Config) (n : Nat) (k : CoreState),
    (run n (k.under c)).state = (runIn c n k).state.under c ∧
    (runExact n (k.under c)).state = (runExactIn c n k).state.under c

/-! ### The instructions -/

/-- R130 (with R6): `>` moves the tape pointer, or traps at the top of a finite tape. -/
def Obligations.RightMovesOrTraps : Prop :=
  ∀ s : State, s.sk = 0 →
    ((∀ e, s.cfg.tl = some e → s.tp + 1 ≠ 2 ^ e) →
      exec .right s = .next (advanced 1 { s with tp := s.tp + 1 })) ∧
    (∀ e, s.cfg.tl = some e → s.tp + 1 = 2 ^ e → s.mode = some .application →
      exec .right s = .next (stayed (trapEntered 0x3E (s.tapeAt s.tp) s))) ∧
    (∀ e, s.cfg.tl = some e → s.tp + 1 = 2 ^ e → s.mode = some .supervisor →
      exec .right s = .next (stayed (halted s)))

/-- R131: `<` moves the tape pointer, or traps at 0. -/
def Obligations.LeftMovesOrTraps : Prop :=
  ∀ s : State, s.sk = 0 →
    (s.tp ≠ 0 → exec .left s = .next (advanced 1 { s with tp := s.tp - 1 })) ∧
    (s.tp = 0 → s.mode = some .application →
      exec .left s = .next (stayed (trapEntered 0x3C (s.tapeAt s.tp) s))) ∧
    (s.tp = 0 → s.mode = some .supervisor → exec .left s = .next (stayed (halted s)))

/-- R140: `+` writes the cell at `tp` and no other, and nothing else but `pc` changes. -/
def Obligations.IncrementWraps : Prop :=
  ∀ s : State, s.sk = 0 → ∃ t,
    exec .inc s = .next t ∧ t = advanced 1 { s with tape := t.tape } ∧
    t.tapeAt s.tp = (s.tapeAt s.tp + 1) % 2 ^ s.cfg.tw ∧
    ∀ a, a ≠ s.tp → t.tapeAt a = s.tapeAt a

/-- R141: `-` writes the cell at `tp` and no other, and nothing else but `pc` changes. -/
def Obligations.DecrementWraps : Prop :=
  ∀ s : State, s.sk = 0 → ∃ t,
    exec .dec s = .next t ∧ t = advanced 1 { s with tape := t.tape } ∧
    t.tapeAt s.tp = (s.tapeAt s.tp + 2 ^ s.cfg.tw - 1) % 2 ^ s.cfg.tw ∧
    ∀ a, a ≠ s.tp → t.tapeAt a = s.tapeAt a

/-- R150: the four cases of `[`, in the rule's order. -/
def Obligations.LoopOpenCases : Prop :=
  ∀ s : State,
    (0 < s.sk → exec .loopOpen s = .next (advanced 1 { s with sk := s.sk + 1 })) ∧
    (s.sk = 0 → s.tapeAt s.tp = 0 → exec .loopOpen s = .next (advanced 1 { s with sk := 1 })) ∧
    (s.sk = 0 → s.tapeAt s.tp ≠ 0 → s.sp = s.cfg.sd → s.mode = some .application →
      exec .loopOpen s = .next (stayed (trapEntered 0x5B (s.tapeAt s.tp) s))) ∧
    (s.sk = 0 → s.tapeAt s.tp ≠ 0 → s.sp = s.cfg.sd → s.mode = some .supervisor →
      exec .loopOpen s = .next (stayed (halted s))) ∧
    (s.sk = 0 → s.tapeAt s.tp ≠ 0 → s.sp ≠ s.cfg.sd →
      exec .loopOpen s =
        .next (advanced 1 { s with stack := s.stack.set s.sp s.pc, sp := s.sp + 1 }))

/-- R151: the cases of `]`. -/
def Obligations.LoopCloseCases : Prop :=
  ∀ s : State,
    (0 < s.sk → exec .loopClose s = .next (advanced 1 { s with sk := s.sk - 1 })) ∧
    (s.sk = 0 → s.sp = 0 → s.mode = some .application →
      exec .loopClose s = .next (stayed (trapEntered 0x5D (s.tapeAt s.tp) s))) ∧
    (s.sk = 0 → s.sp = 0 → s.mode = some .supervisor →
      exec .loopClose s = .next (stayed (halted s))) ∧
    (∀ a, s.sk = 0 → 0 < s.sp → s.tapeAt s.tp ≠ 0 → s.stack[s.sp - 1]? = some a →
      exec .loopClose s = .next (stayed { s with sp := s.sp - 1, pc := a })) ∧
    (s.sk = 0 → 0 < s.sp → s.tapeAt s.tp = 0 →
      exec .loopClose s = .next (advanced 1 { s with sp := s.sp - 1 }))

/-- R180: `.` sends the low 8 bits of the cell after the bytes sent before, and only `pc` changes. -/
def Obligations.OutputSendsLowByte : Prop :=
  ∀ s : State, s.sk = 0 →
    exec .output s =
      .next (advanced 1 { s with output := s.output ++ [BitVec.ofNat 8 (s.tapeAt s.tp % 256)] })

/-- R181: `,` reads the oldest byte the host has supplied and writes it, zero-extended, to the cell at
`tp` when `INPUT_WRITEBACK`; otherwise the byte is consumed and the tape is unchanged. -/
def Obligations.InputReadsAByte : Prop :=
  ∀ (s : State) (b : Byte) (rest : List Byte), s.sk = 0 → s.input = b :: rest → ∃ t,
    exec .input s = .next t ∧
    t = advanced 1 { s with tape := t.tape, input := rest, consumed := s.consumed + 1 } ∧
    (s.cfg.inputWriteback = true →
      t.tapeAt s.tp = b.toNat ∧ ∀ a, a ≠ s.tp → t.tapeAt a = s.tapeAt a) ∧
    (s.cfg.inputWriteback = false → t.tape = s.tape)

/-- R190: NUL halts from any mode and at any skip depth; `pc` and everything but `sr.mode` stay, and the
next step returns `(0, 1)`. -/
def Obligations.NulHalts : Prop :=
  ∀ s : State, exec .nul s = .next (stayed (halted s)) ∧ (halted s).mode = some .halt ∧
    srOp (halted s).sr = srOp s.sr ∧ srCell (halted s).sr = srCell s.sr ∧
    step (stayed (halted s)) = .next { halted s with answer := .pair 0 1 }

/-- R191: a comment byte only moves `pc` on: at no cycle outside skip mode, as a Skip of 1 cycle in
it. -/
def Obligations.CommentIsNop : Prop :=
  ∀ (b : Byte) (s : State),
    (s.sk = 0 → exec (.comment b) s = .next (advanced 0 s)) ∧
    (0 < s.sk → exec (.comment b) s = .next (advanced 1 s))

/-! ### Traps, modes and return -/

/-- R201: what trap entry from Application saves and where it goes. -/
def Obligations.TrapEntryFromApplication : Prop :=
  ∀ (s : State) (op : Byte) (c : Nat), s.mode = some .application →
    s.trap op c = trapEntered op.toNat c s ∧ (s.trap op c).mode = some .supervisor ∧
    srOp (s.trap op c).sr = op ∧ srCell (s.trap op c).sr = BitVec.ofNat 8 c ∧
    ∀ i : Instr, s.violate i = .next (stayed (trapEntered (encodeByte i).toNat (s.tapeAt s.tp) s))

/-- R202: a trap outside Application only sets the mode to Halt, and its step returns `(1, 1)`. -/
def Obligations.TrapElsewhereIsDoubleFault : Prop :=
  ∀ (s : State) (op : Byte) (c : Nat), s.mode ≠ some .application →
    s.trap op c = halted s ∧ (s.trap op c).mode = some .halt ∧
    srOp (s.trap op c).sr = srOp s.sr ∧ srCell (s.trap op c).sr = srCell s.sr ∧
    ∀ i : Instr, s.violate i = .next (stayed (halted s))

/-- R200: the four causes and no other, and what each records. In Supervisor a step halts exactly on a
cause or on NUL. -/
def Obligations.TrapCausesExactly : Prop :=
  (∀ s t : State, s.mode = some .application → step s = .next t →
    (t.mode = some .supervisor ↔ s.TrapCause)) ∧
  (∀ s t : State, s.mode = some .application → step s = .next t → s.TrapCause →
    srOp t.sr = s.fetchedByte ∧ srCell t.sr = BitVec.ofNat 8 (s.tapeAt s.tp % 256) ∧
    t.inactivePc = s.pc) ∧
  ∀ s t : State, s.mode = some .supervisor → step s = .next t →
    (t.mode = some .halt ↔ s.TrapCause ∨ s.fetched = .nul)

/-- R203: a trapping step makes no change but the trap's own, and saves the faulting address. -/
def Obligations.TrapsArePrecise : Prop :=
  ∀ s t : State, s.TrapCause → step s = .next t →
    (s.mode = some .application →
      t = stayed (trapEntered s.fetchedByte.toNat (s.tapeAt s.tp) s) ∧ t.inactivePc = s.pc) ∧
    (s.mode = some .supervisor → t = stayed (halted s))

/-- R211: every change of mode, over every request of the host, is a row of the table. -/
def Obligations.ModeChangesOnlyByTheTable : Prop :=
  ∀ (q : Request) (s t : State), (serve q s).1 = t → t.mode ≠ s.mode →
    (s.mode = some .application ∧ t.mode = some .supervisor ∧ s.TrapCause ∧
      (q = .step ∨ ∃ b, q = .supply b)) ∨
    (s.mode = some .application ∧ t.mode = some .halt ∧ s.fetched = .nul ∧
      (q = .step ∨ ∃ b, q = .supply b)) ∨
    (s.mode = some .supervisor ∧ t.mode = some .halt ∧ (s.TrapCause ∨ s.fetched = .nul) ∧
      (q = .step ∨ ∃ b, q = .supply b)) ∨
    (s.mode = some .supervisor ∧ t.mode = some .application ∧ q = .ret) ∨
    (t.mode = some .application ∧ q = .reset) ∨
    (∃ v, q = .regSet "sr" v ∧ t.sr = BitVec.ofNat 24 v ∧ t.mode ≠ none)

/-- R207, R208: `ret` restores and clears the shadows in Supervisor, keeps `sr.op` and `sr.cell`, and
does nothing in any other mode. It writes no step's answer. -/
def Obligations.ReturnRestoresShadows : Prop :=
  ∀ s : State, s.answer ≠ .waiting →
    (s.mode = some .supervisor →
      serve .ret s =
        ({ s with
            pc := s.inactivePc, sp := s.inactiveSp, sk := s.inactiveSk, inactivePc := 0,
            inactiveSp := 0, inactiveSk := 0, sr := srWithMode s.sr 0 }, .done) ∧
      (serve .ret s).1.mode = some .application) ∧
    (s.mode ≠ some .supervisor → serve .ret s = (s, .done))

/-- A return brings the faulting instruction back: the application's registers, tape and stack are what
they were, and the same step traps again, to the same state (R203, R207, R258). -/
def Obligations.ReturnReexecutesFaultingStep : Prop :=
  ∀ s t : State, s.mode = some .application → s.TrapCause → step s = .next t →
    (serve .ret t).1 =
      stayed { s with
        inactivePc := 0, inactiveSp := 0, inactiveSk := 0,
        sr := srNumber s.fetchedByte.toNat (s.tapeAt s.tp) 0 } ∧
    step (serve .ret t).1 = .next t

/-- R253: with an empty supervisor store a trap takes effect, and the next step halts at `SCODE` 0 with
the trap's cause kept. -/
def Obligations.EmptySupervisorHaltsAfterTrap : Prop :=
  ∀ s t : State, s.mode = some .application → s.scode = [] → s.TrapCause → step s = .next t →
    t = stayed (trapEntered s.fetchedByte.toNat (s.tapeAt s.tp) s) ∧
    step t = .next (stayed (halted t)) ∧
    (halted t).sr = srNumber s.fetchedByte.toNat (s.tapeAt s.tp) 2

/-- R26: the packing of the status register, its fields, the mode ordinals, and the fixture. -/
def Obligations.StatusRegisterPacking : Prop :=
  (∀ (op cell : Byte) (m : Mode),
    (packSr op cell m).toNat = op.toNat ||| (cell.toNat <<< 8) ||| (m.ordinal.toNat <<< 16) ∧
    srOp (packSr op cell m) = op ∧ srCell (packSr op cell m) = cell ∧
    srMode (packSr op cell m) = m.ordinal) ∧
  Mode.application.ordinal = 0 ∧ Mode.supervisor.ordinal = 1 ∧ Mode.halt.ordinal = 2 ∧
  packSr 0x3E 0x61 .supervisor = 0x1613E

/-! ### Register access -/

/-- R215: the eight names, each giving its register, in every mode; any other name fails; and only
between steps. That an access while a step waits fails as `busy` is the model's choice
(notes/assumptions/13.md). -/
def Obligations.RegisterReads : Prop :=
  ∀ s : State,
    (s.answer ≠ .waiting →
      serve (.regGet "pc") s = (s, .value s.pc) ∧ serve (.regGet "tp") s = (s, .value s.tp) ∧
      serve (.regGet "sp") s = (s, .value s.sp) ∧ serve (.regGet "sk") s = (s, .value s.sk) ∧
      serve (.regGet "sr") s = (s, .value s.sr.toNat) ∧
      serve (.regGet "inactive_pc") s = (s, .value s.inactivePc) ∧
      serve (.regGet "inactive_sp") s = (s, .value s.inactiveSp) ∧
      serve (.regGet "inactive_sk") s = (s, .value s.inactiveSk) ∧
      ∀ name, name ∉ ["pc", "tp", "sp", "sk", "sr", "inactive_pc", "inactive_sp", "inactive_sk"] →
        serve (.regGet name) s = (s, .failed .unknownRegister)) ∧
    (s.answer = .waiting → ∀ name v,
      serve (.regGet name) s = (s, .failed .busy) ∧ serve (.regSet name v) s = (s, .failed .busy))

/-- R216, R217: a write of a legal value writes that register and nothing else, any other value fails,
and so does any other name; a write that fails changes nothing. -/
def Obligations.RegisterWrites : Prop :=
  ∀ (s : State) (v : Nat), s.answer ≠ .waiting →
    serve (.regSet "pc" v) s =
      (if v ≤ s.cfg.il then ({ s with pc := v }, .done) else (s, .failed .invalidValue)) ∧
    ((∀ e, s.cfg.tl = some e → v < 2 ^ e) →
      (s.cfg.tl = none → ∀ w, s.cfg.tpWUnbounded = some w → v < 2 ^ w) →
      serve (.regSet "tp" v) s = ({ s with tp := v }, .done)) ∧
    (∀ e, s.cfg.tl = some e → 2 ^ e ≤ v → serve (.regSet "tp" v) s = (s, .failed .invalidValue)) ∧
    (s.cfg.tl = none → ∀ w, s.cfg.tpWUnbounded = some w → 2 ^ w ≤ v →
      serve (.regSet "tp" v) s = (s, .failed .invalidValue)) ∧
    serve (.regSet "sp" v) s =
      (if v ≤ s.cfg.sd then ({ s with sp := v }, .done) else (s, .failed .invalidValue)) ∧
    serve (.regSet "sk" v) s =
      (if v ≤ s.cfg.il then ({ s with sk := v }, .done) else (s, .failed .invalidValue)) ∧
    serve (.regSet "sr" v) s =
      (if v < 2 ^ 24 ∧ v / 2 ^ 16 ≤ 2 then ({ s with sr := BitVec.ofNat 24 v }, .done)
       else (s, .failed .invalidValue)) ∧
    serve (.regSet "inactive_pc" v) s =
      (if v ≤ s.cfg.il then ({ s with inactivePc := v }, .done) else (s, .failed .invalidValue)) ∧
    serve (.regSet "inactive_sp" v) s =
      (if v ≤ s.cfg.sd then ({ s with inactiveSp := v }, .done) else (s, .failed .invalidValue)) ∧
    serve (.regSet "inactive_sk" v) s =
      (if v ≤ s.cfg.il then ({ s with inactiveSk := v }, .done) else (s, .failed .invalidValue)) ∧
    ∀ name, name ∉ ["pc", "tp", "sp", "sk", "sr", "inactive_pc", "inactive_sp", "inactive_sk"] →
      serve (.regSet name v) s = (s, .failed .unknownRegister)

/-! ### Stores, loads and the I/O channel -/

/-- Two stores in canonical form that read alike at every address are the same list, so equal memories
are equal data (R52, R55). -/
def Obligations.CanonicalStoresAreExtensional : Prop :=
  (∀ m m' : List (Nat × Nat), Memory.wf 0 m = true → Memory.wf 0 m' = true →
    (∀ a, Memory.read m 0 a = Memory.read m' 0 a) → m = m') ∧
  ∀ m m' : List Host.Cell, Memory.wf 0 m = true → Memory.wf 0 m' = true →
    (∀ a, Memory.read m 0 a = Memory.read m' 0 a) → m = m'

/-- R54: a load replaces the contents of one code store by the image, and an image longer than `il` is
refused with nothing changed. -/
def Obligations.CodeLoadReadsBack : Prop :=
  ∀ (s : State) (space : CodeSpace) (image : List Byte), s.answer ≠ .waiting →
    (image.length ≤ s.cfg.il → ∃ t, serve (.loadCode space image) s = (t, .done) ∧
      t = { s with acode := t.acode, scode := t.scode } ∧
      (∀ other, other ≠ space → ∀ a, t.codeAt other a = s.codeAt other a) ∧
      ∀ a, t.codeAt space a = if h : a < image.length then image[a] else 0) ∧
    (s.cfg.il < image.length → serve (.loadCode space image) s = (s, .failed .imageTooLong))

/-- R55 and what the spec derives from it: a store never loaded reads 0x00, every address at `il` or above
reads 0x00, and running off the end of a loaded image halts with `pc` unchanged. -/
def Obligations.RunningOffTheImageHalts : Prop :=
  (∀ (c : Config) (space : CodeSpace) (a : Nat), (State.initial c).codeAt space a = 0) ∧
  (∀ (s : State) (space : CodeSpace) (a : Nat), SessionInv s → s.cfg.il ≤ a → s.codeAt space a = 0) ∧
  ∀ (s t : State) (space : CodeSpace) (image : List Byte) (m : Mode),
    serve (.loadCode space image) s = (t, .done) → s.mode = some m → m ≠ .halt →
    (space = .scode ↔ m = .supervisor) → s.invariantsHold = true → image.length ≤ s.pc →
    step t = .next (stayed (halted t))

/-- R71: for `tw = 8` byte `i` of a buffer becomes cell `i`; otherwise, and for any width, the host
gives a map from address to cell, every unlisted address 0. What happens to an image that does not fit
the tape is the model's choice (notes/assumptions/5.md) and is not stated here. -/
def Obligations.TapeLoadReadsBack : Prop :=
  ∀ s : State, s.answer ≠ .waiting →
    (∀ bytes : List Byte, s.cfg.tw = 8 → (∀ e, s.cfg.tl = some e → bytes.length ≤ 2 ^ e) →
      ∃ t, serve (.loadTapeBytes bytes) s = (t, .done) ∧ t = { s with tape := t.tape } ∧
        ∀ a, t.tapeAt a = (bytes.getD a 0).toNat) ∧
    (∀ image : List (Nat × Nat), (image.map (·.1)).Nodup →
      (∀ a v, (a, v) ∈ image → v < 2 ^ s.cfg.tw ∧ ∀ e, s.cfg.tl = some e → a < 2 ^ e) →
      ∃ t, serve (.loadTape image) s = (t, .done) ∧ t = { s with tape := t.tape } ∧
        (∀ a v, (a, v) ∈ image → t.tapeAt a = v) ∧
        ∀ a, a ∉ image.map (·.1) → t.tapeAt a = 0)

/-- R56: nothing but a host load changes a code store, over every request of the host. -/
def Obligations.OnlyLoadsWriteCode : Prop :=
  ∀ (q : Request) (s : State), (∀ space image, q ≠ .loadCode space image) →
    (serve q s).1.acode = s.acode ∧ (serve q s).1.scode = s.scode

/-- A step writes the tape only at `tp`, and only on `+`, `-` or `,` outside skip mode (R53, R59). -/
def Obligations.StepWritesTapeOnlyAtTp : Prop :=
  ∀ s t : State, step s = .next t →
    (∀ a, a ≠ s.tp → t.tapeAt a = s.tapeAt a) ∧
    (s.fetched ≠ .inc → s.fetched ≠ .dec → s.fetched ≠ .input → t.tape = s.tape) ∧
    (0 < s.sk → t.tape = s.tape) ∧ (s.mode = some .halt → t.tape = s.tape)

/-- The writers of each register in a step: `tp` (R22), the shadows (R25), `sr.op` and `sr.cell` (R29,
R30), `sr.mode` (R31), the stack entries (R32), `sp` and `sk` (10_state.md section 7). -/
def Obligations.StepRegisterWriters : Prop :=
  ∀ s t : State, step s = .next t →
    (t.tp ≠ s.tp → s.sk = 0 ∧ (s.fetched = .right ∨ s.fetched = .left)) ∧
    (t.inactivePc ≠ s.inactivePc ∨ t.inactiveSp ≠ s.inactiveSp ∨ t.inactiveSk ≠ s.inactiveSk →
      s.mode = some .application ∧ s.TrapCause) ∧
    (srOp t.sr ≠ srOp s.sr ∨ srCell t.sr ≠ srCell s.sr →
      s.mode = some .application ∧ s.TrapCause) ∧
    (t.sr ≠ s.sr → s.TrapCause ∨ s.fetched = .nul) ∧
    (t.stack ≠ s.stack → s.fetched = .loopOpen ∧ s.sk = 0 ∧ t.stack = s.stack.set s.sp s.pc) ∧
    (t.sp ≠ s.sp → s.sk = 0 ∧ (s.fetched = .loopOpen ∨ s.fetched = .loopClose ∨ s.TrapCause)) ∧
    (t.sk ≠ s.sk → s.fetched = .loopOpen ∨ s.fetched = .loopClose) ∧ t.cfg = s.cfg

/-- Application code neither reads nor writes the supervisor store, and Supervisor not the application
store: the other store's contents make no difference to a step (R65, R102). -/
def Obligations.StepIgnoresTheOtherCodeStore : Prop :=
  ∀ (s : State) (other : List Host.Cell),
    (s.mode = some .application →
      (∀ t, step s = .next t → step { s with scode := other } = .next { t with scode := other }) ∧
      ∀ f, step s = .fault f → step { s with scode := other } = .fault f) ∧
    (s.mode = some .supervisor →
      (∀ t, step s = .next t → step { s with acode := other } = .next { t with acode := other }) ∧
      ∀ f, step s = .fault f → step { s with acode := other } = .fault f)

/-- A step sends at most one byte, after those sent before, and only on `.`; it reads at most one, the
oldest, and only on `,` (R57, R58, R59, R66). The pending list and the count are the model's picture of
the device (notes/assumptions/4.md). -/
def Obligations.StepKeepsStreamOrder : Prop :=
  ∀ s t : State, step s = .next t →
    (∃ sent : List Byte, t.output = s.output ++ sent ∧
      (sent = [] ∨ (s.sk = 0 ∧ s.fetched = .output ∧ sent = [BitVec.ofNat 8 (s.tapeAt s.tp)]))) ∧
    ∃ used : List Byte, s.input = used ++ t.input ∧ t.consumed = s.consumed + used.length ∧
      (used = [] ∨ (s.sk = 0 ∧ s.fetched = .input ∧ used.length = 1))

/-- While a `,` waits the host may only supply its byte or take output (R110, R218). That any other request
then fails as `busy`, with nothing changed, is the model's choice (notes/assumptions/13.md), as is the
answer that says a step waits (notes/assumptions/3.md). -/
def Obligations.WaitingStepLocksTheHost : Prop :=
  ∀ (q : Request) (s : State), s.answer = .waiting → q ≠ .takeOutput → (∀ b, q ≠ .supply b) →
    serve q s = (s, .failed .busy)

/-- A byte may be supplied only while a `,` step waits (R218). That a supply at any other time fails as
`notWaiting`, with nothing changed, is the model's choice (notes/assumptions/13.md). -/
def Obligations.SupplyNeedsAWaitingStep : Prop :=
  ∀ (b : Byte) (s : State), s.answer ≠ .waiting → serve (.supply b) s = (s, .failed .notWaiting)

/-- Where no byte is there `,` waits. A step that waits has changed nothing but the port's answer, waits on
for as long as no byte comes, and completes with the byte the host supplies, as R181 says (R58, R110;
the answer and the queue are the model's picture, notes/assumptions/3.md and 4.md). -/
def Obligations.SupplyCompletesWaitingStep : Prop :=
  (∀ s : State, s.sk = 0 → s.input = [] → exec .input s = .next { s with answer := .waiting }) ∧
  ∀ s t : State, step s = .next t → t.answer = .waiting →
    t = { s with answer := .waiting } ∧ step t = .next t ∧ s.fetched = .input ∧ s.input = [] ∧
    ∀ b : Byte, ∃ u, serve (.supply b) t = (u, .stepped (.pair 1 1)) ∧
      u = advanced 1 { s with tape := u.tape, consumed := s.consumed + 1 } ∧
      (s.cfg.inputWriteback = true →
        u.tapeAt s.tp = b.toNat ∧ ∀ a, a ≠ s.tp → u.tapeAt a = s.tapeAt a) ∧
      (s.cfg.inputWriteback = false → u.tape = s.tape)

/-! ### Behaviour over several steps -/

/-- A loop-back followed by its `[`: the two steps change `pc` alone, and cannot trap, so the depth at
the `[` is the same on every iteration (R154). -/
def Obligations.LoopBackReentersTheBody : Prop :=
  ∀ s t : State, s.mode = some .application ∨ s.mode = some .supervisor → s.sk = 0 →
    s.fetched = .loopClose → 0 < s.sp → s.tapeAt s.tp ≠ 0 → step s = .next t →
    t.fetched = .loopOpen →
    ∃ a, s.stack[s.sp - 1]? = some a ∧ t.pc = a ∧
      step t = .next { s with pc := a + 1, answer := .pair 1 1 }

/-- Once halted, the machine stays so for any number of steps, each returning `(0, 1)` (R101, R254). -/
def Obligations.HaltedForEver : Prop :=
  ∀ (n : Nat) (s : State), s.mode = some .halt →
    Host.Core.run Sys2Proof.core (n + 1) s = .next { s with answer := .pair 0 1 }

/-- The host's `run` always ends: halted, out of its budget, or waiting for input (R219). The loop on an
explicit bound of steps, and that it ends where a step waits, are the model's choice
(notes/assumptions/12.md). -/
def Obligations.RunAlwaysEnds : Prop :=
  ∀ (maxCycles : Nat) (s : State), RunInv s →
    ((run maxCycles s).ended = .finished ∧
      ((run maxCycles s).state.mode = some .halt ∨ maxCycles ≤ (run maxCycles s).cycles)) ∨
    ((run maxCycles s).ended = .waiting ∧ (run maxCycles s).state.answer = .waiting)

/-- The register widths of R11 hold every value of a state that meets the invariant. -/
def Obligations.RegistersFitTheirWidths : Prop :=
  ∀ s : State, RunInv s →
    s.pc < 2 ^ s.cfg.pcWidth ∧ s.inactivePc < 2 ^ s.cfg.pcWidth ∧
    (∀ a ∈ s.stack, a < 2 ^ s.cfg.pcWidth) ∧ s.sp < 2 ^ s.cfg.spWidth ∧
    s.inactiveSp < 2 ^ s.cfg.spWidth ∧ s.sk < 2 ^ s.cfg.skWidth ∧
    s.inactiveSk < 2 ^ s.cfg.skWidth ∧ ∀ e, s.cfg.tl = some e →
      s.cfg.tpWidth = some e ∧ s.tp < 2 ^ e
end

