-- ==== Sys2Proof/Laws/Memory.lean ====
section
/-! SUPPORT. The laws of the addressable store: a read after a write, what a load leaves, and that every
operation keeps the canonical form. -/

namespace Sys2Proof.Machine

variable {α : Type}

@[simp] theorem Memory.read_nil (d : α) (a : Nat) : Memory.read [] d a = d := rfl

/-- A read of a canonical head, or of what follows it. -/
theorem Memory.read_cons (d : α) (k : Nat) (v : α) (m : List (Nat × α)) (a : Nat) :
    Memory.read ((k, v) :: m) d a = if k = a then v else Memory.read m d a := rfl

theorem Memory.read_put_same (d : α) (m : List (Nat × α)) (a : Nat) (v : α) :
    Memory.read (Memory.put m a v) d a = v := by
  induction m with
  | nil => simp [Memory.put, Memory.read_cons]
  | cons e m ih =>
    obtain ⟨k, w⟩ := e
    simp only [Memory.put]
    split
    · simp [Memory.read_cons]
    · split
      · simp [Memory.read_cons]
      · rw [Memory.read_cons, if_neg (by omega), ih]

theorem Memory.read_put_other (d : α) (m : List (Nat × α)) (a b : Nat) (v : α) (h : b ≠ a) :
    Memory.read (Memory.put m a v) d b = Memory.read m d b := by
  induction m with
  | nil => simp [Memory.put, Memory.read_cons, h.symm]
  | cons e m ih =>
    obtain ⟨k, w⟩ := e
    simp only [Memory.put]
    split
    · rw [Memory.read_cons, if_neg h.symm]
    · split
      · rename_i hak
        subst hak
        simp [Memory.read_cons, h.symm]
      · simp only [Memory.read_cons, ih]

/-- An address no entry names reads the unlisted unit. -/
theorem Memory.read_absent (d : α) (m : List (Nat × α)) (a : Nat) (h : ∀ e ∈ m, e.1 ≠ a) :
    Memory.read m d a = d := by
  induction m with
  | nil => rfl
  | cons e m ih =>
    obtain ⟨k, w⟩ := e
    have hk : k ≠ a := h (k, w) (by simp)
    rw [Memory.read_cons, if_neg hk, ih (fun e he => h e (by simp [he]))]

theorem Memory.read_erase_same (d : α) (m : List (Nat × α)) (a : Nat) :
    Memory.read (Memory.erase m a) d a = d :=
  Memory.read_absent d _ a (by simp [Memory.erase])

theorem Memory.read_erase_other (d : α) (m : List (Nat × α)) (a b : Nat) (h : b ≠ a) :
    Memory.read (Memory.erase m a) d b = Memory.read m d b := by
  induction m with
  | nil => rfl
  | cons e m ih =>
    obtain ⟨k, w⟩ := e
    unfold Memory.erase at ih ⊢
    by_cases hk : k = a
    · subst hk
      simp [Memory.read_cons, ih, h.symm]
    · simp [hk, Memory.read_cons, ih]

variable [DecidableEq α]

/-- A read after a write gives the value written at its address, and elsewhere what it gave before
(R53). -/
theorem Memory.read_write (d : α) (m : List (Nat × α)) (a b : Nat) (v : α) :
    Memory.read (Memory.write m d a v) d b = if b = a then v else Memory.read m d b := by
  unfold Memory.write
  by_cases hb : b = a
  · subst hb
    split
    · rename_i hv
      simp [Memory.read_erase_same, hv]
    · simp [Memory.read_put_same]
  · split
    · rw [Memory.read_erase_other _ _ _ _ hb]
    · rw [Memory.read_put_other _ _ _ _ _ hb]

/-- The canonical form as two plain facts. -/
theorem Memory.wf_iff (d : α) (m : List (Nat × α)) :
    Memory.wf d m = true ↔ m.Pairwise (fun x y => x.1 < y.1) ∧ ∀ e ∈ m, e.2 ≠ d := by
  simp [Memory.wf]

@[simp] theorem Memory.wf_nil (d : α) : Memory.wf d [] = true := by simp [Memory.wf]

omit [DecidableEq α] in
/-- Every entry after a `put` is the new one or an old one. -/
theorem Memory.mem_put (m : List (Nat × α)) (a : Nat) (v : α) (e : Nat × α)
    (h : e ∈ Memory.put m a v) : e = (a, v) ∨ e ∈ m := by
  induction m with
  | nil => simpa [Memory.put] using h
  | cons x m ih =>
    obtain ⟨k, w⟩ := x
    simp only [Memory.put] at h
    split at h
    · simpa using h
    · split at h
      · rcases List.mem_cons.mp h with h | h
        · exact .inl h
        · exact .inr (by simp [h])
      · rcases List.mem_cons.mp h with h | h
        · exact .inr (by simp [h])
        · exact (ih h).imp_right (by simp [·])

/-- Every entry after a write is the new one, which is not the unlisted unit, or an old one. -/
theorem Memory.mem_write (d : α) (m : List (Nat × α)) (a : Nat) (v : α) (e : Nat × α)
    (h : e ∈ Memory.write m d a v) : (e = (a, v) ∧ v ≠ d) ∨ e ∈ m := by
  unfold Memory.write at h
  split at h
  · exact .inr (List.mem_filter.mp h).1
  · rename_i hv
    exact (Memory.mem_put m a v e h).imp_left (⟨·, hv⟩)

omit [DecidableEq α] in
theorem Memory.pairwise_put (m : List (Nat × α)) (a : Nat) (v : α)
    (h : m.Pairwise (fun x y => x.1 < y.1)) :
    (Memory.put m a v).Pairwise (fun x y => x.1 < y.1) := by
  induction m with
  | nil => simp [Memory.put]
  | cons e m ih =>
    obtain ⟨k, w⟩ := e
    obtain ⟨hk, hm⟩ := List.pairwise_cons.mp h
    simp only [Memory.put]
    split
    · rename_i hak
      refine List.pairwise_cons.mpr ⟨fun e he => ?_, h⟩
      rcases List.mem_cons.mp he with rfl | he
      · exact hak
      · have := hk e he
        simp only at this ⊢
        omega
    · split
      · rename_i hak
        subst hak
        exact List.pairwise_cons.mpr ⟨fun e he => hk e he, hm⟩
      · refine List.pairwise_cons.mpr ⟨fun e he => ?_, ih hm⟩
        rcases Memory.mem_put m a v e he with rfl | he
        · simp only
          omega
        · exact hk e he

/-- A write keeps the canonical form. -/
theorem Memory.wf_write (d : α) (m : List (Nat × α)) (a : Nat) (v : α) (h : Memory.wf d m = true) :
    Memory.wf d (Memory.write m d a v) = true := by
  obtain ⟨hp, hd⟩ := (Memory.wf_iff d m).mp h
  refine (Memory.wf_iff d _).mpr ⟨?_, fun e he => ?_⟩
  · unfold Memory.write
    split
    · exact hp.filter _
    · exact Memory.pairwise_put m a v hp
  · rcases Memory.mem_write d m a v e he with ⟨rfl, hv⟩ | he
    · exact hv
    · exact hd e he

/-- So does removing an entry. -/
theorem Memory.wf_erase (d : α) (m : List (Nat × α)) (a : Nat) (h : Memory.wf d m = true) :
    Memory.wf d (Memory.erase m a) = true := by
  simpa [Memory.write] using Memory.wf_write d m a d h

/-- So does putting a unit that an unlisted address does not read as. -/
theorem Memory.wf_put (d : α) (m : List (Nat × α)) (a : Nat) (v : α) (h : Memory.wf d m = true)
    (hv : v ≠ d) : Memory.wf d (Memory.put m a v) = true := by
  simpa [Memory.write, hv] using Memory.wf_write d m a v h

/-- The three stores right after construction are in canonical form. -/
theorem Memory.wf_initial (c : Config) :
    Memory.wf 0 (State.initial c).tape = true ∧ Memory.wf 0 (State.initial c).acode = true ∧
    Memory.wf 0 (State.initial c).scode = true :=
  ⟨Memory.wf_nil 0, Memory.wf_nil 0, Memory.wf_nil 0⟩

/-- A map loaded as pairs is in canonical form. -/
theorem Memory.wf_ofPairs (d : α) (l : List (Nat × α)) : Memory.wf d (Memory.ofPairs d l) = true := by
  induction l with
  | nil => exact Memory.wf_nil d
  | cons e l ih => exact Memory.wf_write d _ e.1 e.2 ih

/-- Every entry of a loaded map is one of its pairs. -/
theorem Memory.mem_ofPairs (d : α) (l : List (Nat × α)) (e : Nat × α)
    (h : e ∈ Memory.ofPairs d l) : e ∈ l := by
  induction l with
  | nil => exact h
  | cons x l ih =>
    rcases Memory.mem_write d _ x.1 x.2 e h with ⟨rfl, -⟩ | h
    · simp
    · exact List.mem_cons_of_mem _ (ih h)

/-- Every entry of a loaded buffer lies in its range and is not the unlisted unit. -/
theorem Memory.mem_ofList (d : α) (l : List α) (start : Nat) (e : Nat × α)
    (h : e ∈ Memory.ofList d start l) : start ≤ e.1 ∧ e.1 < start + l.length ∧ e.2 ≠ d := by
  induction l generalizing start with
  | nil => simp [Memory.ofList] at h
  | cons v l ih =>
    simp only [Memory.ofList] at h
    split at h
    · obtain ⟨lo, hi, hne⟩ := ih (start + 1) h
      exact ⟨by omega, by rw [List.length_cons]; omega, hne⟩
    · rename_i hv
      rcases List.mem_cons.mp h with rfl | h
      · simp [hv]
      · obtain ⟨lo, hi, hne⟩ := ih (start + 1) h
        exact ⟨by omega, by rw [List.length_cons]; omega, hne⟩

/-- A loaded buffer is in canonical form. -/
theorem Memory.wf_ofList (d : α) (l : List α) (start : Nat) :
    Memory.wf d (Memory.ofList d start l) = true := by
  refine (Memory.wf_iff d _).mpr ⟨?_, fun e he => (Memory.mem_ofList d l start e he).2.2⟩
  induction l generalizing start with
  | nil => simp [Memory.ofList]
  | cons v l ih =>
    simp only [Memory.ofList]
    split
    · exact ih (start + 1)
    · refine List.pairwise_cons.mpr ⟨fun e he => ?_, ih (start + 1)⟩
      have := (Memory.mem_ofList d l (start + 1) e he).1
      simp only
      omega

/-- A loaded buffer reads back its unit `i` at `start + i`, and the unlisted unit beyond its end (R54,
R55). -/
theorem Memory.read_ofList (d : α) (l : List α) (start i : Nat) :
    Memory.read (Memory.ofList d start l) d (start + i) = l.getD i d := by
  induction l generalizing start i with
  | nil => simp [Memory.ofList]
  | cons v l ih =>
    cases i with
    | zero =>
      simp only [Memory.ofList]
      split
      · rename_i hv
        simp only [Nat.add_zero, List.getD_cons_zero, hv]
        exact Memory.read_absent d _ _
          (fun e he => by have := (Memory.mem_ofList d l _ e he).1; omega)
      · simp [Memory.read_cons]
    | succ i =>
      have hs : start + (i + 1) = start + 1 + i := by omega
      simp only [Memory.ofList, List.getD_cons_succ]
      split
      · rw [hs, ih]
      · rw [Memory.read_cons, if_neg (by omega), hs, ih]

end Sys2Proof.Machine
end

