-- ==== Sys2Proof/Laws/StatusReg.lean ====
section
/-! SUPPORT. The fields of a packed status register, and what writing its mode leaves (R26 to R31). -/

namespace Sys2Proof.Machine

@[simp] theorem srOp_packSr (op cell : Byte) (m : Mode) : srOp (packSr op cell m) = op := by
  unfold srOp packSr
  ext i hi
  have low := BitVec.getLsbD_append (x := m.ordinal ++ cell) (y := op) (i := i)
  simp [hi] at low
  simpa using low

@[simp] theorem srCell_packSr (op cell : Byte) (m : Mode) : srCell (packSr op cell m) = cell := by
  unfold srCell packSr
  ext i hi
  have low := BitVec.getLsbD_append (x := m.ordinal ++ cell) (y := op) (i := 8 + i)
  have mid := BitVec.getLsbD_append (x := m.ordinal) (y := cell) (i := i)
  simp [hi] at low mid
  simpa using low.trans mid

@[simp] theorem srMode_packSr (op cell : Byte) (m : Mode) :
    srMode (packSr op cell m) = m.ordinal := by
  unfold srMode packSr
  ext i hi
  have low := BitVec.getLsbD_append (x := m.ordinal ++ cell) (y := op) (i := 16 + i)
  have mid := BitVec.getLsbD_append (x := m.ordinal) (y := cell) (i := 8 + i)
  rw [if_neg (by omega), show 16 + i - 8 = 8 + i by omega] at low
  simp [hi] at mid
  simpa using low.trans mid

@[simp] theorem Mode.ofOrdinal_ordinal (m : Mode) : Mode.ofOrdinal m.ordinal = some m := by
  cases m <;> rfl

@[simp] theorem srOp_withMode (v : BitVec 24) (m : Mode) : srOp (withMode v m) = srOp v :=
  srOp_packSr _ _ _

@[simp] theorem srCell_withMode (v : BitVec 24) (m : Mode) : srCell (withMode v m) = srCell v :=
  srCell_packSr _ _ _

@[simp] theorem srMode_withMode (v : BitVec 24) (m : Mode) : srMode (withMode v m) = m.ordinal :=
  srMode_packSr _ _ _

end Sys2Proof.Machine
end

