-- ==== Sys2Proof/Laws/State.lean ====
section
/-! SUPPORT. One lemma per field per update of the state: what each named update writes, and that it
leaves every other field alone, the mode and the tape's cells with them. -/

namespace Sys2Proof.Machine

/-! ### `setPc` -/

@[simp] theorem State.setPc_cfg (s : State) (v : Nat) : (s.setPc v).cfg = s.cfg := rfl
@[simp] theorem State.setPc_pc (s : State) (v : Nat) : (s.setPc v).pc = v := rfl
@[simp] theorem State.setPc_tp (s : State) (v : Nat) : (s.setPc v).tp = s.tp := rfl
@[simp] theorem State.setPc_sp (s : State) (v : Nat) : (s.setPc v).sp = s.sp := rfl
@[simp] theorem State.setPc_sk (s : State) (v : Nat) : (s.setPc v).sk = s.sk := rfl
@[simp] theorem State.setPc_inactivePc (s : State) (v : Nat) : (s.setPc v).inactivePc = s.inactivePc :=
  rfl
@[simp] theorem State.setPc_inactiveSp (s : State) (v : Nat) : (s.setPc v).inactiveSp = s.inactiveSp :=
  rfl
@[simp] theorem State.setPc_inactiveSk (s : State) (v : Nat) : (s.setPc v).inactiveSk = s.inactiveSk :=
  rfl
@[simp] theorem State.setPc_sr (s : State) (v : Nat) : (s.setPc v).sr = s.sr := rfl
@[simp] theorem State.setPc_stack (s : State) (v : Nat) : (s.setPc v).stack = s.stack := rfl
@[simp] theorem State.setPc_tape (s : State) (v : Nat) : (s.setPc v).tape = s.tape := rfl
@[simp] theorem State.setPc_acode (s : State) (v : Nat) : (s.setPc v).acode = s.acode := rfl
@[simp] theorem State.setPc_scode (s : State) (v : Nat) : (s.setPc v).scode = s.scode := rfl
@[simp] theorem State.setPc_input (s : State) (v : Nat) : (s.setPc v).input = s.input := rfl
@[simp] theorem State.setPc_consumed (s : State) (v : Nat) : (s.setPc v).consumed = s.consumed :=
  rfl
@[simp] theorem State.setPc_output (s : State) (v : Nat) : (s.setPc v).output = s.output := rfl
@[simp] theorem State.setPc_answer (s : State) (v : Nat) : (s.setPc v).answer = s.answer := rfl
@[simp] theorem State.setPc_mode (s : State) (v : Nat) : (s.setPc v).mode = s.mode := (rfl)
@[simp] theorem State.setPc_tapeAt (s : State) (v : Nat) (a : Nat) : (s.setPc v).tapeAt a = s.tapeAt a :=
  (rfl)

/-! ### `setTp` -/

@[simp] theorem State.setTp_cfg (s : State) (v : Nat) : (s.setTp v).cfg = s.cfg := rfl
@[simp] theorem State.setTp_pc (s : State) (v : Nat) : (s.setTp v).pc = s.pc := rfl
@[simp] theorem State.setTp_tp (s : State) (v : Nat) : (s.setTp v).tp = v := rfl
@[simp] theorem State.setTp_sp (s : State) (v : Nat) : (s.setTp v).sp = s.sp := rfl
@[simp] theorem State.setTp_sk (s : State) (v : Nat) : (s.setTp v).sk = s.sk := rfl
@[simp] theorem State.setTp_inactivePc (s : State) (v : Nat) : (s.setTp v).inactivePc = s.inactivePc :=
  rfl
@[simp] theorem State.setTp_inactiveSp (s : State) (v : Nat) : (s.setTp v).inactiveSp = s.inactiveSp :=
  rfl
@[simp] theorem State.setTp_inactiveSk (s : State) (v : Nat) : (s.setTp v).inactiveSk = s.inactiveSk :=
  rfl
@[simp] theorem State.setTp_sr (s : State) (v : Nat) : (s.setTp v).sr = s.sr := rfl
@[simp] theorem State.setTp_stack (s : State) (v : Nat) : (s.setTp v).stack = s.stack := rfl
@[simp] theorem State.setTp_tape (s : State) (v : Nat) : (s.setTp v).tape = s.tape := rfl
@[simp] theorem State.setTp_acode (s : State) (v : Nat) : (s.setTp v).acode = s.acode := rfl
@[simp] theorem State.setTp_scode (s : State) (v : Nat) : (s.setTp v).scode = s.scode := rfl
@[simp] theorem State.setTp_input (s : State) (v : Nat) : (s.setTp v).input = s.input := rfl
@[simp] theorem State.setTp_consumed (s : State) (v : Nat) : (s.setTp v).consumed = s.consumed :=
  rfl
@[simp] theorem State.setTp_output (s : State) (v : Nat) : (s.setTp v).output = s.output := rfl
@[simp] theorem State.setTp_answer (s : State) (v : Nat) : (s.setTp v).answer = s.answer := rfl
@[simp] theorem State.setTp_mode (s : State) (v : Nat) : (s.setTp v).mode = s.mode := (rfl)
@[simp] theorem State.setTp_tapeAt (s : State) (v : Nat) (a : Nat) : (s.setTp v).tapeAt a = s.tapeAt a :=
  (rfl)

/-! ### `setSk` -/

@[simp] theorem State.setSk_cfg (s : State) (v : Nat) : (s.setSk v).cfg = s.cfg := rfl
@[simp] theorem State.setSk_pc (s : State) (v : Nat) : (s.setSk v).pc = s.pc := rfl
@[simp] theorem State.setSk_tp (s : State) (v : Nat) : (s.setSk v).tp = s.tp := rfl
@[simp] theorem State.setSk_sp (s : State) (v : Nat) : (s.setSk v).sp = s.sp := rfl
@[simp] theorem State.setSk_sk (s : State) (v : Nat) : (s.setSk v).sk = v := rfl
@[simp] theorem State.setSk_inactivePc (s : State) (v : Nat) : (s.setSk v).inactivePc = s.inactivePc :=
  rfl
@[simp] theorem State.setSk_inactiveSp (s : State) (v : Nat) : (s.setSk v).inactiveSp = s.inactiveSp :=
  rfl
@[simp] theorem State.setSk_inactiveSk (s : State) (v : Nat) : (s.setSk v).inactiveSk = s.inactiveSk :=
  rfl
@[simp] theorem State.setSk_sr (s : State) (v : Nat) : (s.setSk v).sr = s.sr := rfl
@[simp] theorem State.setSk_stack (s : State) (v : Nat) : (s.setSk v).stack = s.stack := rfl
@[simp] theorem State.setSk_tape (s : State) (v : Nat) : (s.setSk v).tape = s.tape := rfl
@[simp] theorem State.setSk_acode (s : State) (v : Nat) : (s.setSk v).acode = s.acode := rfl
@[simp] theorem State.setSk_scode (s : State) (v : Nat) : (s.setSk v).scode = s.scode := rfl
@[simp] theorem State.setSk_input (s : State) (v : Nat) : (s.setSk v).input = s.input := rfl
@[simp] theorem State.setSk_consumed (s : State) (v : Nat) : (s.setSk v).consumed = s.consumed :=
  rfl
@[simp] theorem State.setSk_output (s : State) (v : Nat) : (s.setSk v).output = s.output := rfl
@[simp] theorem State.setSk_answer (s : State) (v : Nat) : (s.setSk v).answer = s.answer := rfl
@[simp] theorem State.setSk_mode (s : State) (v : Nat) : (s.setSk v).mode = s.mode := (rfl)
@[simp] theorem State.setSk_tapeAt (s : State) (v : Nat) (a : Nat) : (s.setSk v).tapeAt a = s.tapeAt a :=
  (rfl)

/-! ### `setAnswer` -/

@[simp] theorem State.setAnswer_cfg (s : State) (a : StepAnswer) : (s.setAnswer a).cfg = s.cfg :=
  rfl
@[simp] theorem State.setAnswer_pc (s : State) (a : StepAnswer) : (s.setAnswer a).pc = s.pc := rfl
@[simp] theorem State.setAnswer_tp (s : State) (a : StepAnswer) : (s.setAnswer a).tp = s.tp := rfl
@[simp] theorem State.setAnswer_sp (s : State) (a : StepAnswer) : (s.setAnswer a).sp = s.sp := rfl
@[simp] theorem State.setAnswer_sk (s : State) (a : StepAnswer) : (s.setAnswer a).sk = s.sk := rfl
@[simp] theorem State.setAnswer_inactivePc (s : State) (a : StepAnswer) : (s.setAnswer a).inactivePc = s.inactivePc :=
  rfl
@[simp] theorem State.setAnswer_inactiveSp (s : State) (a : StepAnswer) : (s.setAnswer a).inactiveSp = s.inactiveSp :=
  rfl
@[simp] theorem State.setAnswer_inactiveSk (s : State) (a : StepAnswer) : (s.setAnswer a).inactiveSk = s.inactiveSk :=
  rfl
@[simp] theorem State.setAnswer_sr (s : State) (a : StepAnswer) : (s.setAnswer a).sr = s.sr := rfl
@[simp] theorem State.setAnswer_stack (s : State) (a : StepAnswer) : (s.setAnswer a).stack = s.stack :=
  rfl
@[simp] theorem State.setAnswer_tape (s : State) (a : StepAnswer) : (s.setAnswer a).tape = s.tape :=
  rfl
@[simp] theorem State.setAnswer_acode (s : State) (a : StepAnswer) : (s.setAnswer a).acode = s.acode :=
  rfl
@[simp] theorem State.setAnswer_scode (s : State) (a : StepAnswer) : (s.setAnswer a).scode = s.scode :=
  rfl
@[simp] theorem State.setAnswer_input (s : State) (a : StepAnswer) : (s.setAnswer a).input = s.input :=
  rfl
@[simp] theorem State.setAnswer_consumed (s : State) (a : StepAnswer) : (s.setAnswer a).consumed = s.consumed :=
  rfl
@[simp] theorem State.setAnswer_output (s : State) (a : StepAnswer) : (s.setAnswer a).output = s.output :=
  rfl
@[simp] theorem State.setAnswer_answer (s : State) (a : StepAnswer) : (s.setAnswer a).answer = a :=
  rfl
@[simp] theorem State.setAnswer_mode (s : State) (a : StepAnswer) : (s.setAnswer a).mode = s.mode :=
  (rfl)
@[simp] theorem State.setAnswer_tapeAt (s : State) (a : StepAnswer) (x : Nat) : (s.setAnswer a).tapeAt x = s.tapeAt x :=
  (rfl)

/-! ### `writeCell` -/

@[simp] theorem State.writeCell_cfg (s : State) (v : Nat) : (s.writeCell v).cfg = s.cfg := rfl
@[simp] theorem State.writeCell_pc (s : State) (v : Nat) : (s.writeCell v).pc = s.pc := rfl
@[simp] theorem State.writeCell_tp (s : State) (v : Nat) : (s.writeCell v).tp = s.tp := rfl
@[simp] theorem State.writeCell_sp (s : State) (v : Nat) : (s.writeCell v).sp = s.sp := rfl
@[simp] theorem State.writeCell_sk (s : State) (v : Nat) : (s.writeCell v).sk = s.sk := rfl
@[simp] theorem State.writeCell_inactivePc (s : State) (v : Nat) : (s.writeCell v).inactivePc = s.inactivePc :=
  rfl
@[simp] theorem State.writeCell_inactiveSp (s : State) (v : Nat) : (s.writeCell v).inactiveSp = s.inactiveSp :=
  rfl
@[simp] theorem State.writeCell_inactiveSk (s : State) (v : Nat) : (s.writeCell v).inactiveSk = s.inactiveSk :=
  rfl
@[simp] theorem State.writeCell_sr (s : State) (v : Nat) : (s.writeCell v).sr = s.sr := rfl
@[simp] theorem State.writeCell_stack (s : State) (v : Nat) : (s.writeCell v).stack = s.stack := rfl
@[simp] theorem State.writeCell_tape (s : State) (v : Nat) : (s.writeCell v).tape = Memory.write s.tape 0 s.tp v :=
  rfl
@[simp] theorem State.writeCell_acode (s : State) (v : Nat) : (s.writeCell v).acode = s.acode := rfl
@[simp] theorem State.writeCell_scode (s : State) (v : Nat) : (s.writeCell v).scode = s.scode := rfl
@[simp] theorem State.writeCell_input (s : State) (v : Nat) : (s.writeCell v).input = s.input := rfl
@[simp] theorem State.writeCell_consumed (s : State) (v : Nat) : (s.writeCell v).consumed = s.consumed :=
  rfl
@[simp] theorem State.writeCell_output (s : State) (v : Nat) : (s.writeCell v).output = s.output :=
  rfl
@[simp] theorem State.writeCell_answer (s : State) (v : Nat) : (s.writeCell v).answer = s.answer :=
  rfl
@[simp] theorem State.writeCell_mode (s : State) (v : Nat) : (s.writeCell v).mode = s.mode := (rfl)

/-! ### `sendByte` -/

@[simp] theorem State.sendByte_cfg (s : State) (b : Byte) : (s.sendByte b).cfg = s.cfg := rfl
@[simp] theorem State.sendByte_pc (s : State) (b : Byte) : (s.sendByte b).pc = s.pc := rfl
@[simp] theorem State.sendByte_tp (s : State) (b : Byte) : (s.sendByte b).tp = s.tp := rfl
@[simp] theorem State.sendByte_sp (s : State) (b : Byte) : (s.sendByte b).sp = s.sp := rfl
@[simp] theorem State.sendByte_sk (s : State) (b : Byte) : (s.sendByte b).sk = s.sk := rfl
@[simp] theorem State.sendByte_inactivePc (s : State) (b : Byte) : (s.sendByte b).inactivePc = s.inactivePc :=
  rfl
@[simp] theorem State.sendByte_inactiveSp (s : State) (b : Byte) : (s.sendByte b).inactiveSp = s.inactiveSp :=
  rfl
@[simp] theorem State.sendByte_inactiveSk (s : State) (b : Byte) : (s.sendByte b).inactiveSk = s.inactiveSk :=
  rfl
@[simp] theorem State.sendByte_sr (s : State) (b : Byte) : (s.sendByte b).sr = s.sr := rfl
@[simp] theorem State.sendByte_stack (s : State) (b : Byte) : (s.sendByte b).stack = s.stack := rfl
@[simp] theorem State.sendByte_tape (s : State) (b : Byte) : (s.sendByte b).tape = s.tape := rfl
@[simp] theorem State.sendByte_acode (s : State) (b : Byte) : (s.sendByte b).acode = s.acode := rfl
@[simp] theorem State.sendByte_scode (s : State) (b : Byte) : (s.sendByte b).scode = s.scode := rfl
@[simp] theorem State.sendByte_input (s : State) (b : Byte) : (s.sendByte b).input = s.input := rfl
@[simp] theorem State.sendByte_consumed (s : State) (b : Byte) : (s.sendByte b).consumed = s.consumed :=
  rfl
@[simp] theorem State.sendByte_output (s : State) (b : Byte) : (s.sendByte b).output = s.output ++ [b] :=
  rfl
@[simp] theorem State.sendByte_answer (s : State) (b : Byte) : (s.sendByte b).answer = s.answer :=
  rfl
@[simp] theorem State.sendByte_mode (s : State) (b : Byte) : (s.sendByte b).mode = s.mode := (rfl)
@[simp] theorem State.sendByte_tapeAt (s : State) (b : Byte) (a : Nat) : (s.sendByte b).tapeAt a = s.tapeAt a :=
  (rfl)

/-! ### `takeInput` -/

@[simp] theorem State.takeInput_cfg (s : State) (rest : List Byte) : (s.takeInput rest).cfg = s.cfg :=
  rfl
@[simp] theorem State.takeInput_pc (s : State) (rest : List Byte) : (s.takeInput rest).pc = s.pc :=
  rfl
@[simp] theorem State.takeInput_tp (s : State) (rest : List Byte) : (s.takeInput rest).tp = s.tp :=
  rfl
@[simp] theorem State.takeInput_sp (s : State) (rest : List Byte) : (s.takeInput rest).sp = s.sp :=
  rfl
@[simp] theorem State.takeInput_sk (s : State) (rest : List Byte) : (s.takeInput rest).sk = s.sk :=
  rfl
@[simp] theorem State.takeInput_inactivePc (s : State) (rest : List Byte) : (s.takeInput rest).inactivePc = s.inactivePc :=
  rfl
@[simp] theorem State.takeInput_inactiveSp (s : State) (rest : List Byte) : (s.takeInput rest).inactiveSp = s.inactiveSp :=
  rfl
@[simp] theorem State.takeInput_inactiveSk (s : State) (rest : List Byte) : (s.takeInput rest).inactiveSk = s.inactiveSk :=
  rfl
@[simp] theorem State.takeInput_sr (s : State) (rest : List Byte) : (s.takeInput rest).sr = s.sr :=
  rfl
@[simp] theorem State.takeInput_stack (s : State) (rest : List Byte) : (s.takeInput rest).stack = s.stack :=
  rfl
@[simp] theorem State.takeInput_tape (s : State) (rest : List Byte) : (s.takeInput rest).tape = s.tape :=
  rfl
@[simp] theorem State.takeInput_acode (s : State) (rest : List Byte) : (s.takeInput rest).acode = s.acode :=
  rfl
@[simp] theorem State.takeInput_scode (s : State) (rest : List Byte) : (s.takeInput rest).scode = s.scode :=
  rfl
@[simp] theorem State.takeInput_input (s : State) (rest : List Byte) : (s.takeInput rest).input = rest :=
  rfl
@[simp] theorem State.takeInput_consumed (s : State) (rest : List Byte) : (s.takeInput rest).consumed = s.consumed + 1 :=
  rfl
@[simp] theorem State.takeInput_output (s : State) (rest : List Byte) : (s.takeInput rest).output = s.output :=
  rfl
@[simp] theorem State.takeInput_answer (s : State) (rest : List Byte) : (s.takeInput rest).answer = s.answer :=
  rfl
@[simp] theorem State.takeInput_mode (s : State) (rest : List Byte) : (s.takeInput rest).mode = s.mode :=
  (rfl)
@[simp] theorem State.takeInput_tapeAt (s : State) (rest : List Byte) (a : Nat) : (s.takeInput rest).tapeAt a = s.tapeAt a :=
  (rfl)

/-! ### `withInput` -/

@[simp] theorem State.withInput_cfg (s : State) (b : Byte) : (s.withInput b).cfg = s.cfg := rfl
@[simp] theorem State.withInput_pc (s : State) (b : Byte) : (s.withInput b).pc = s.pc := rfl
@[simp] theorem State.withInput_tp (s : State) (b : Byte) : (s.withInput b).tp = s.tp := rfl
@[simp] theorem State.withInput_sp (s : State) (b : Byte) : (s.withInput b).sp = s.sp := rfl
@[simp] theorem State.withInput_sk (s : State) (b : Byte) : (s.withInput b).sk = s.sk := rfl
@[simp] theorem State.withInput_inactivePc (s : State) (b : Byte) : (s.withInput b).inactivePc = s.inactivePc :=
  rfl
@[simp] theorem State.withInput_inactiveSp (s : State) (b : Byte) : (s.withInput b).inactiveSp = s.inactiveSp :=
  rfl
@[simp] theorem State.withInput_inactiveSk (s : State) (b : Byte) : (s.withInput b).inactiveSk = s.inactiveSk :=
  rfl
@[simp] theorem State.withInput_sr (s : State) (b : Byte) : (s.withInput b).sr = s.sr := rfl
@[simp] theorem State.withInput_stack (s : State) (b : Byte) : (s.withInput b).stack = s.stack :=
  rfl
@[simp] theorem State.withInput_tape (s : State) (b : Byte) : (s.withInput b).tape = s.tape := rfl
@[simp] theorem State.withInput_acode (s : State) (b : Byte) : (s.withInput b).acode = s.acode :=
  rfl
@[simp] theorem State.withInput_scode (s : State) (b : Byte) : (s.withInput b).scode = s.scode :=
  rfl
@[simp] theorem State.withInput_input (s : State) (b : Byte) : (s.withInput b).input = s.input ++ [b] :=
  rfl
@[simp] theorem State.withInput_consumed (s : State) (b : Byte) : (s.withInput b).consumed = s.consumed :=
  rfl
@[simp] theorem State.withInput_output (s : State) (b : Byte) : (s.withInput b).output = s.output :=
  rfl
@[simp] theorem State.withInput_answer (s : State) (b : Byte) : (s.withInput b).answer = s.answer :=
  rfl
@[simp] theorem State.withInput_mode (s : State) (b : Byte) : (s.withInput b).mode = s.mode := (rfl)
@[simp] theorem State.withInput_tapeAt (s : State) (b : Byte) (a : Nat) : (s.withInput b).tapeAt a = s.tapeAt a :=
  (rfl)

/-! ### `pushPc` -/

@[simp] theorem State.pushPc_cfg (s : State) : (s.pushPc).cfg = s.cfg := rfl
@[simp] theorem State.pushPc_pc (s : State) : (s.pushPc).pc = s.pc := rfl
@[simp] theorem State.pushPc_tp (s : State) : (s.pushPc).tp = s.tp := rfl
@[simp] theorem State.pushPc_sp (s : State) : (s.pushPc).sp = s.sp + 1 := rfl
@[simp] theorem State.pushPc_sk (s : State) : (s.pushPc).sk = s.sk := rfl
@[simp] theorem State.pushPc_inactivePc (s : State) : (s.pushPc).inactivePc = s.inactivePc := rfl
@[simp] theorem State.pushPc_inactiveSp (s : State) : (s.pushPc).inactiveSp = s.inactiveSp := rfl
@[simp] theorem State.pushPc_inactiveSk (s : State) : (s.pushPc).inactiveSk = s.inactiveSk := rfl
@[simp] theorem State.pushPc_sr (s : State) : (s.pushPc).sr = s.sr := rfl
@[simp] theorem State.pushPc_stack (s : State) : (s.pushPc).stack = s.stack.set s.sp s.pc := rfl
@[simp] theorem State.pushPc_tape (s : State) : (s.pushPc).tape = s.tape := rfl
@[simp] theorem State.pushPc_acode (s : State) : (s.pushPc).acode = s.acode := rfl
@[simp] theorem State.pushPc_scode (s : State) : (s.pushPc).scode = s.scode := rfl
@[simp] theorem State.pushPc_input (s : State) : (s.pushPc).input = s.input := rfl
@[simp] theorem State.pushPc_consumed (s : State) : (s.pushPc).consumed = s.consumed := rfl
@[simp] theorem State.pushPc_output (s : State) : (s.pushPc).output = s.output := rfl
@[simp] theorem State.pushPc_answer (s : State) : (s.pushPc).answer = s.answer := rfl
@[simp] theorem State.pushPc_mode (s : State) : (s.pushPc).mode = s.mode := (rfl)
@[simp] theorem State.pushPc_tapeAt (s : State) (a : Nat) : (s.pushPc).tapeAt a = s.tapeAt a := (rfl)

/-! ### `popEntry` -/

@[simp] theorem State.popEntry_cfg (s : State) : (s.popEntry).cfg = s.cfg := rfl
@[simp] theorem State.popEntry_pc (s : State) : (s.popEntry).pc = s.pc := rfl
@[simp] theorem State.popEntry_tp (s : State) : (s.popEntry).tp = s.tp := rfl
@[simp] theorem State.popEntry_sp (s : State) : (s.popEntry).sp = s.sp - 1 := rfl
@[simp] theorem State.popEntry_sk (s : State) : (s.popEntry).sk = s.sk := rfl
@[simp] theorem State.popEntry_inactivePc (s : State) : (s.popEntry).inactivePc = s.inactivePc :=
  rfl
@[simp] theorem State.popEntry_inactiveSp (s : State) : (s.popEntry).inactiveSp = s.inactiveSp :=
  rfl
@[simp] theorem State.popEntry_inactiveSk (s : State) : (s.popEntry).inactiveSk = s.inactiveSk :=
  rfl
@[simp] theorem State.popEntry_sr (s : State) : (s.popEntry).sr = s.sr := rfl
@[simp] theorem State.popEntry_stack (s : State) : (s.popEntry).stack = s.stack := rfl
@[simp] theorem State.popEntry_tape (s : State) : (s.popEntry).tape = s.tape := rfl
@[simp] theorem State.popEntry_acode (s : State) : (s.popEntry).acode = s.acode := rfl
@[simp] theorem State.popEntry_scode (s : State) : (s.popEntry).scode = s.scode := rfl
@[simp] theorem State.popEntry_input (s : State) : (s.popEntry).input = s.input := rfl
@[simp] theorem State.popEntry_consumed (s : State) : (s.popEntry).consumed = s.consumed := rfl
@[simp] theorem State.popEntry_output (s : State) : (s.popEntry).output = s.output := rfl
@[simp] theorem State.popEntry_answer (s : State) : (s.popEntry).answer = s.answer := rfl
@[simp] theorem State.popEntry_mode (s : State) : (s.popEntry).mode = s.mode := (rfl)
@[simp] theorem State.popEntry_tapeAt (s : State) (a : Nat) : (s.popEntry).tapeAt a = s.tapeAt a :=
  (rfl)

/-! ### `setMode` -/

@[simp] theorem State.setMode_cfg (s : State) (m : Mode) : (s.setMode m).cfg = s.cfg := rfl
@[simp] theorem State.setMode_pc (s : State) (m : Mode) : (s.setMode m).pc = s.pc := rfl
@[simp] theorem State.setMode_tp (s : State) (m : Mode) : (s.setMode m).tp = s.tp := rfl
@[simp] theorem State.setMode_sp (s : State) (m : Mode) : (s.setMode m).sp = s.sp := rfl
@[simp] theorem State.setMode_sk (s : State) (m : Mode) : (s.setMode m).sk = s.sk := rfl
@[simp] theorem State.setMode_inactivePc (s : State) (m : Mode) : (s.setMode m).inactivePc = s.inactivePc :=
  rfl
@[simp] theorem State.setMode_inactiveSp (s : State) (m : Mode) : (s.setMode m).inactiveSp = s.inactiveSp :=
  rfl
@[simp] theorem State.setMode_inactiveSk (s : State) (m : Mode) : (s.setMode m).inactiveSk = s.inactiveSk :=
  rfl
@[simp] theorem State.setMode_sr (s : State) (m : Mode) : (s.setMode m).sr = withMode s.sr m := rfl
@[simp] theorem State.setMode_stack (s : State) (m : Mode) : (s.setMode m).stack = s.stack := rfl
@[simp] theorem State.setMode_tape (s : State) (m : Mode) : (s.setMode m).tape = s.tape := rfl
@[simp] theorem State.setMode_acode (s : State) (m : Mode) : (s.setMode m).acode = s.acode := rfl
@[simp] theorem State.setMode_scode (s : State) (m : Mode) : (s.setMode m).scode = s.scode := rfl
@[simp] theorem State.setMode_input (s : State) (m : Mode) : (s.setMode m).input = s.input := rfl
@[simp] theorem State.setMode_consumed (s : State) (m : Mode) : (s.setMode m).consumed = s.consumed :=
  rfl
@[simp] theorem State.setMode_output (s : State) (m : Mode) : (s.setMode m).output = s.output := rfl
@[simp] theorem State.setMode_answer (s : State) (m : Mode) : (s.setMode m).answer = s.answer := rfl
@[simp] theorem State.setMode_tapeAt (s : State) (m : Mode) (a : Nat) : (s.setMode m).tapeAt a = s.tapeAt a :=
  (rfl)

/-! ### Reads after updates -/

/-- A read of the tape after a write at `tp` (R53). -/
theorem State.writeCell_tapeAt (s : State) (v a : Nat) :
    (s.writeCell v).tapeAt a = if a = s.tp then v else s.tapeAt a :=
  Memory.read_write 0 s.tape s.tp a v

/-- The mode is the one just written (R27, R31). -/
@[simp] theorem State.setMode_mode (s : State) (m : Mode) : (s.setMode m).mode = some m := by
  simp only [State.mode, State.setMode_sr, srMode_withMode, Mode.ofOrdinal_ordinal]

/-- The machine is in Application after construction (R36). -/
theorem State.initial_mode (c : Config) : (State.initial c).mode = some .application := by
  have h : Mode.ofOrdinal (srMode 0) = some .application := by decide
  exact h

end Sys2Proof.Machine
end

