-- ==== Sys2Proof/Laws/Ops.lean ====
section
/-! SUPPORT. What each shared operation can do, said once: the tests as plain conditions, the end of a
step for each result class, the trap, the skip test, the fetch stage, and a step's three outcomes. -/

namespace Sys2Proof.Machine

/-! ### The tests as plain conditions -/

theorem State.skipping_iff (s : State) : s.skipping = true ↔ 0 < s.sk := by simp [State.skipping]

theorem State.cellIsZero_iff (s : State) : s.cellIsZero = true ↔ s.cell = 0 := by
  simp [State.cellIsZero]

theorem State.atTapeTop_iff (s : State) :
    s.atTapeTop = true ↔ s.cfg.tapeLength = some (s.tp + 1) := by
  unfold State.atTapeTop
  cases s.cfg.tapeLength <;> simp [eq_comm]

theorem State.atTapeBottom_iff (s : State) : s.atTapeBottom = true ↔ s.tp = 0 := by
  simp [State.atTapeBottom]

theorem State.stackFull_iff (s : State) : s.stackFull = true ↔ s.sp = s.cfg.sd := by
  simp [State.stackFull]

theorem State.stackEmpty_iff (s : State) : s.stackEmpty = true ↔ s.sp = 0 := by
  simp [State.stackEmpty]

/-- An address is on the tape when it is below a finite length (R6, R22). -/
theorem onTape_iff (c : Config) (a : Nat) :
    c.onTape a = true ↔ ∀ n, c.tapeLength = some n → a < n := by
  unfold Config.onTape
  cases c.tapeLength <;> simp

/-- A legal configuration, as the ranges the document gives (R5, R7 to R10; notes/assumptions/18.md). -/
theorem validConfig_iff (c : Config) :
    c.valid = true ↔
      (∀ e, c.tl = some e → 10 ≤ e ∧ e ≤ 127) ∧ 8 ≤ c.tw ∧ c.tw ≤ 128 ∧ c.tw % 8 = 0 ∧
      (c.nm = 2 ∨ c.nm = 3) ∧ 1 ≤ c.sd ∧ 32 ≤ c.il := by
  unfold Config.valid Config.validWithin ConfigBounds.transcribed
  cases c.tl <;> simp [and_assoc] <;> omega

/-- The guard of R109 as the conjunction of R35's bounds. -/
theorem State.invariantsHold_iff (s : State) :
    s.invariantsHold = true ↔
      s.sp ≤ s.cfg.sd ∧ s.cfg.onTape s.tp = true ∧ s.sk ≤ s.cfg.il ∧ s.pc ≤ s.cfg.il ∧
      s.inactiveSp ≤ s.cfg.sd ∧ s.inactivePc ≤ s.cfg.il ∧ s.inactiveSk ≤ s.cfg.il ∧
      s.stack.length = s.cfg.sd ∧ (∀ a ∈ s.stack.take s.sp, a < s.cfg.il) ∧ s.cfg.valid = true := by
  simp only [State.invariantsHold, Bool.and_eq_true, decide_eq_true_eq, List.all_eq_true, and_assoc]

/-! ### The mode -/

/-- The mode as the number in `sr[23:16]` (R26, R27). -/
theorem State.mode_eq_some (s : State) (m : Mode) : s.mode = some m ↔ srMode s.sr = m.ordinal := by
  unfold State.mode Mode.ofOrdinal
  cases m <;> simp only [Mode.ordinal] <;> split <;> (try split) <;> (try split) <;> simp_all

/-- The values 3 to 255 name no mode (R28). -/
theorem State.mode_eq_none (s : State) : s.mode = none ↔ 3 ≤ (srMode s.sr).toNat := by
  unfold State.mode Mode.ofOrdinal
  split
  · simp_all
  · split
    · simp_all
    · split
      · simp_all
      · simp only [true_iff]
        bv_omega

/-! ### The end of a step -/

/-- The state with `pc` moved on by 1 and the pair `(1, cycles)` answered (R107, R108). -/
def State.onward (s : State) (cycles : Nat) : State :=
  (s.setPc (s.pc + 1)).setAnswer (.pair 1 cycles)

/-- The state with `pc` left as it is and the pair `(1, 1)` answered (R107, R108). -/
def State.inPlace (s : State) : State := s.setAnswer (.pair 1 1)

@[simp] theorem State.onward_cfg (s : State) (c : Nat) : (s.onward c).cfg = s.cfg := rfl
@[simp] theorem State.onward_pc (s : State) (c : Nat) : (s.onward c).pc = s.pc + 1 := rfl
@[simp] theorem State.onward_tp (s : State) (c : Nat) : (s.onward c).tp = s.tp := rfl
@[simp] theorem State.onward_sp (s : State) (c : Nat) : (s.onward c).sp = s.sp := rfl
@[simp] theorem State.onward_sk (s : State) (c : Nat) : (s.onward c).sk = s.sk := rfl
@[simp] theorem State.onward_inactivePc (s : State) (c : Nat) : (s.onward c).inactivePc = s.inactivePc :=
  rfl
@[simp] theorem State.onward_inactiveSp (s : State) (c : Nat) : (s.onward c).inactiveSp = s.inactiveSp :=
  rfl
@[simp] theorem State.onward_inactiveSk (s : State) (c : Nat) : (s.onward c).inactiveSk = s.inactiveSk :=
  rfl
@[simp] theorem State.onward_sr (s : State) (c : Nat) : (s.onward c).sr = s.sr := rfl
@[simp] theorem State.onward_stack (s : State) (c : Nat) : (s.onward c).stack = s.stack := rfl
@[simp] theorem State.onward_tape (s : State) (c : Nat) : (s.onward c).tape = s.tape := rfl
@[simp] theorem State.onward_acode (s : State) (c : Nat) : (s.onward c).acode = s.acode := rfl
@[simp] theorem State.onward_scode (s : State) (c : Nat) : (s.onward c).scode = s.scode := rfl
@[simp] theorem State.onward_input (s : State) (c : Nat) : (s.onward c).input = s.input := rfl
@[simp] theorem State.onward_consumed (s : State) (c : Nat) : (s.onward c).consumed = s.consumed :=
  rfl
@[simp] theorem State.onward_output (s : State) (c : Nat) : (s.onward c).output = s.output := rfl
@[simp] theorem State.onward_answer (s : State) (c : Nat) : (s.onward c).answer = .pair 1 c := rfl
@[simp] theorem State.onward_mode (s : State) (c : Nat) : (s.onward c).mode = s.mode := (rfl)
@[simp] theorem State.onward_tapeAt (s : State) (c : Nat) (a : Nat) : (s.onward c).tapeAt a = s.tapeAt a :=
  (rfl)

@[simp] theorem State.inPlace_cfg (s : State) : (s.inPlace).cfg = s.cfg := rfl
@[simp] theorem State.inPlace_pc (s : State) : (s.inPlace).pc = s.pc := rfl
@[simp] theorem State.inPlace_tp (s : State) : (s.inPlace).tp = s.tp := rfl
@[simp] theorem State.inPlace_sp (s : State) : (s.inPlace).sp = s.sp := rfl
@[simp] theorem State.inPlace_sk (s : State) : (s.inPlace).sk = s.sk := rfl
@[simp] theorem State.inPlace_inactivePc (s : State) : (s.inPlace).inactivePc = s.inactivePc := rfl
@[simp] theorem State.inPlace_inactiveSp (s : State) : (s.inPlace).inactiveSp = s.inactiveSp := rfl
@[simp] theorem State.inPlace_inactiveSk (s : State) : (s.inPlace).inactiveSk = s.inactiveSk := rfl
@[simp] theorem State.inPlace_sr (s : State) : (s.inPlace).sr = s.sr := rfl
@[simp] theorem State.inPlace_stack (s : State) : (s.inPlace).stack = s.stack := rfl
@[simp] theorem State.inPlace_tape (s : State) : (s.inPlace).tape = s.tape := rfl
@[simp] theorem State.inPlace_acode (s : State) : (s.inPlace).acode = s.acode := rfl
@[simp] theorem State.inPlace_scode (s : State) : (s.inPlace).scode = s.scode := rfl
@[simp] theorem State.inPlace_input (s : State) : (s.inPlace).input = s.input := rfl
@[simp] theorem State.inPlace_consumed (s : State) : (s.inPlace).consumed = s.consumed := rfl
@[simp] theorem State.inPlace_output (s : State) : (s.inPlace).output = s.output := rfl
@[simp] theorem State.inPlace_answer (s : State) : (s.inPlace).answer = .pair 1 1 := rfl
@[simp] theorem State.inPlace_mode (s : State) : (s.inPlace).mode = s.mode := (rfl)
@[simp] theorem State.inPlace_tapeAt (s : State) (a : Nat) : (s.inPlace).tapeAt a = s.tapeAt a :=
  (rfl)
theorem State.complete_regular (s : State) : s.complete .regular = .next (s.onward 1) := rfl

theorem State.complete_nop (s : State) : s.complete .nop = .next (s.onward 0) := rfl

theorem State.complete_skip (s : State) : s.complete .skip = .next (s.onward 1) := rfl

theorem State.complete_controlFlow (s : State) : s.complete .controlFlow = .next s.inPlace := rfl

theorem State.complete_violation (s : State) : s.complete .violation = .next s.inPlace := rfl

theorem State.complete_halt (s : State) : s.complete .halt = .next s.inPlace := rfl

@[simp] theorem State.haltedStep_eq (s : State) : s.haltedStep = s.setAnswer (.pair 0 1) := rfl

/-! ### The skip test, the trap and the input byte -/

theorem State.unlessSkipping_pos (s : State) (e : StepOutcome) (h : 0 < s.sk) :
    s.unlessSkipping e = .next (s.onward 1) := by
  rw [State.unlessSkipping, if_pos ((State.skipping_iff s).mpr h), State.complete_skip]

theorem State.unlessSkipping_zero (s : State) (e : StepOutcome) (h : s.sk = 0) :
    s.unlessSkipping e = e := by
  rw [State.unlessSkipping, if_neg (by simp [State.skipping_iff, h])]

theorem State.trap_of_application (s : State) (op : Byte) (c : Nat)
    (h : s.mode = some .application) :
    s.trap op c =
      { s with
        inactivePc := s.pc, inactiveSp := s.sp, inactiveSk := s.sk, pc := 0, sp := 0, sk := 0,
        sr := packSr op (trunc8 c) .supervisor } := if_pos h

theorem State.trap_of_other (s : State) (op : Byte) (c : Nat) (h : s.mode ≠ some .application) :
    s.trap op c = s.setMode .halt := if_neg h

/-- What no trap touches, in any mode: `tp`, the tape, the stack entries, the stores and the channel
(R203, R212). -/
theorem State.trap_keeps (s : State) (op : Byte) (c : Nat) :
    (s.trap op c).cfg = s.cfg ∧ (s.trap op c).tp = s.tp ∧ (s.trap op c).stack = s.stack ∧
    (s.trap op c).tape = s.tape ∧ (s.trap op c).acode = s.acode ∧ (s.trap op c).scode = s.scode ∧
    (s.trap op c).input = s.input ∧ (s.trap op c).consumed = s.consumed ∧
    (s.trap op c).output = s.output := by
  unfold State.trap
  split <;> simp

/-- The mode after a trap: Supervisor from Application, Halt from any other (R201, R202). -/
theorem State.trap_mode (s : State) (op : Byte) (c : Nat) :
    (s.trap op c).mode =
      if s.mode = some .application then some .supervisor else some .halt := by
  unfold State.trap
  split
  · simp only [State.mode, srMode_packSr, Mode.ofOrdinal_ordinal]
  · exact State.setMode_mode s .halt

/-! ### The fetch stage and the step -/

/-- The code store a mode fetches from; Halt fetches from none (R101, R102). -/
def Mode.space : Mode → Option CodeSpace
  | .application => some .acode
  | .supervisor => some .scode
  | .halt => none

theorem State.fetchStage_instr (s : State) (m : Mode) (space : CodeSpace)
    (hm : s.mode = some m) (hs : m.space = some space) (hi : s.invariantsHold = true) :
    s.fetchStage = .instr (decodeByte (s.codeAt space s.pc)) := by
  cases m <;> cases hs <;> simp [State.fetchStage, State.fetchFrom, hm, hi]

theorem State.fetchStage_guard (s : State) (m : Mode) (space : CodeSpace)
    (hm : s.mode = some m) (hs : m.space = some space) (hi : s.invariantsHold = false) :
    s.fetchStage = .stopped .invariantViolated := by
  cases m <;> cases hs <;> simp [State.fetchStage, State.fetchFrom, hm, hi]

/-- A step that runs an instruction is that instruction's meaning (R104). -/
theorem step_eq_exec (s : State) (m : Mode) (space : CodeSpace)
    (hm : s.mode = some m) (hs : m.space = some space) (hi : s.invariantsHold = true) :
    step s = exec (decodeByte (s.codeAt space s.pc)) s := by
  simp [step, State.fetchStage_instr s m space hm hs hi]

/-- All a step that answers a next state can do: it is the halted step, or a guarded instruction. -/
theorem step_next_cases {s t : State} (h : step s = .next t) :
    (s.mode = some .halt ∧ t = s.haltedStep) ∨
    ∃ m space, s.mode = some m ∧ m.space = some space ∧ s.invariantsHold = true ∧
      exec (decodeByte (s.codeAt space s.pc)) s = .next t := by
  unfold step State.fetchStage State.fetchFrom at h
  cases hm : s.mode with
  | none => simp [hm] at h
  | some m =>
    cases m with
    | halt =>
      simp only [hm, Host.Outcome.next.injEq] at h
      exact .inl ⟨rfl, h.symm⟩
    | application =>
      refine .inr ⟨.application, .acode, rfl, rfl, ?_⟩
      by_cases hi : s.invariantsHold = true
      · simp only [hm, hi, if_true] at h
        exact ⟨hi, h⟩
      · simp [hm, hi] at h
    | supervisor =>
      refine .inr ⟨.supervisor, .scode, rfl, rfl, ?_⟩
      by_cases hi : s.invariantsHold = true
      · simp only [hm, hi, if_true] at h
        exact ⟨hi, h⟩
      · simp [hm, hi] at h

/-! ### Runs of several steps -/

/-- A run whose first step has a next state goes on from it. -/
theorem coreRun_next (M : Host.Core) (n : Nat) (s t : M.State) (h : M.step s = .next t) :
    M.run (n + 1) s = M.run n t := by
  rw [Host.Core.run, h]

/-- A run whose first step faults ends there. -/
theorem coreRun_fault (M : Host.Core) (n : Nat) (s : M.State) (f : M.Fault)
    (h : M.step s = .fault f) : M.run (n + 1) s = .fault f := by
  rw [Host.Core.run, h]

/-- A run whose first step is refused ends there. -/
theorem coreRun_refused (M : Host.Core) (n : Nat) (s : M.State) (r : M.Refusal)
    (h : M.step s = .refused r) : M.run (n + 1) s = .refused r := by
  rw [Host.Core.run, h]

end Sys2Proof.Machine
end

