-- ==== Sys2Proof/Laws/Effect.lean ====
section
/-! SUPPORT. All an instruction can do, said once: the cases of spec/40_step_engine.md R104 to R106 as an
inductive relation, and the inversion of `exec` and of `step` to it. A proof about every step takes its
cases from here and unfolds no meaning. -/

namespace Sys2Proof.Machine

/-- The condition under which the instruction `i` traps when it is not skipped (R200). -/
def State.trapsOn (s : State) : Instr → Prop
  | .right => s.cfg.tapeLength = some (s.tp + 1)
  | .left => s.tp = 0
  | .loopOpen => s.cell ≠ 0 ∧ s.sp = s.cfg.sd
  | .loopClose => s.sp = 0
  | .nul => False
  | .inc => False
  | .input => False
  | .dec => False
  | .output => False
  | .comment _ => False

/-- `Effect s i t`: executing `i` in `s` comes to `t`, one constructor per case of the rules. -/
inductive Effect (s : State) : Instr → State → Prop where
  /-- A skipped instruction (R105). -/
  | skip (i : Instr) (sk : 0 < s.sk) (ho : i ≠ .loopOpen) (hc : i ≠ .loopClose) (hn : i ≠ .nul) :
      Effect s i (s.onward 1)
  /-- NUL (R190). -/
  | nul : Effect s .nul (s.setMode .halt).inPlace
  /-- A trap (R200). -/
  | trap (i : Instr) (sk : s.sk = 0) (h : s.trapsOn i) :
      Effect s i (s.trap (encodeByte i) s.cell).inPlace
  /-- `>` below the top (R130). -/
  | right (sk : s.sk = 0) (h : ¬ s.trapsOn .right) : Effect s .right ((s.setTp (s.tp + 1)).onward 1)
  /-- `<` above 0 (R131). -/
  | left (sk : s.sk = 0) (h : s.tp ≠ 0) : Effect s .left ((s.setTp (s.tp - 1)).onward 1)
  /-- `+` (R140). -/
  | inc (sk : s.sk = 0) : Effect s .inc ((s.writeCell s.cellPlusOne).onward 1)
  /-- `-` (R141). -/
  | dec (sk : s.sk = 0) : Effect s .dec ((s.writeCell s.cellMinusOne).onward 1)
  /-- `.` (R180). -/
  | output (sk : s.sk = 0) : Effect s .output ((s.sendByte s.cellByte).onward 1)
  /-- `,` with a byte there, written to the cell (R181). -/
  | inputWrite (b : Byte) (rest : List Byte) (sk : s.sk = 0) (h : s.input = b :: rest)
      (w : s.cfg.inputWriteback = true) :
      Effect s .input (((s.takeInput rest).writeCell (inputCell b)).onward 1)
  /-- `,` with a byte there, discarded (R12, R181). -/
  | inputDrop (b : Byte) (rest : List Byte) (sk : s.sk = 0) (h : s.input = b :: rest)
      (w : s.cfg.inputWriteback = false) : Effect s .input ((s.takeInput rest).onward 1)
  /-- `,` with no byte there (R58, R110). -/
  | inputWait (sk : s.sk = 0) (h : s.input = []) : Effect s .input (s.setAnswer .waiting)
  /-- A comment outside skip mode (R191). -/
  | comment (b : Byte) (sk : s.sk = 0) : Effect s (.comment b) (s.onward 0)
  /-- `[` while skipping (R150). -/
  | openNested (sk : 0 < s.sk) : Effect s .loopOpen ((s.setSk (s.sk + 1)).onward 1)
  /-- `[` on a zero cell (R150). -/
  | openSkip (sk : s.sk = 0) (h : s.cell = 0) : Effect s .loopOpen ((s.setSk 1).onward 1)
  /-- `[` entering the body (R150). -/
  | openPush (sk : s.sk = 0) (h : s.cell ≠ 0) (room : s.sp ≠ s.cfg.sd) :
      Effect s .loopOpen (s.pushPc.onward 1)
  /-- `]` while skipping (R151). -/
  | closeSkip (sk : 0 < s.sk) : Effect s .loopClose ((s.setSk (s.sk - 1)).onward 1)
  /-- `]` looping back (R151). -/
  | closeBack (sk : s.sk = 0) (sp : s.sp ≠ 0) (h : s.cell ≠ 0) :
      Effect s .loopClose (s.popEntry.setPc s.stackTop).inPlace
  /-- `]` leaving the loop (R151). -/
  | closeExit (sk : s.sk = 0) (sp : s.sp ≠ 0) (h : s.cell = 0) :
      Effect s .loopClose (s.popEntry.onward 1)

/-- The skip test as two cases: a Skip, or the instruction's own effect with `sk = 0` (R104, R105). -/
theorem Effect.unlessSkipping {s : State} {i : Instr} {e : StepOutcome}
    (ho : i ≠ .loopOpen) (hc : i ≠ .loopClose) (hn : i ≠ .nul)
    (own : s.sk = 0 → ∃ t, e = .next t ∧ Effect s i t) :
    ∃ t, s.unlessSkipping e = .next t ∧ Effect s i t := by
  rcases Nat.eq_zero_or_pos s.sk with h | h
  · rw [State.unlessSkipping_zero s e h]
    exact own h
  · exact ⟨_, State.unlessSkipping_pos s e h, .skip i h ho hc hn⟩

theorem execRight_effect (s : State) : ∃ t, execRight s = .next t ∧ Effect s .right t := by
  refine Effect.unlessSkipping (by decide) (by decide) (by decide) fun h => ?_
  by_cases top : s.atTapeTop = true
  · exact ⟨_, by rw [if_pos top]; rfl, .trap .right h ((State.atTapeTop_iff s).mp top)⟩
  · exact ⟨_, by rw [if_neg top]; rfl, .right h (fun c => top ((State.atTapeTop_iff s).mpr c))⟩

theorem execLeft_effect (s : State) : ∃ t, execLeft s = .next t ∧ Effect s .left t := by
  refine Effect.unlessSkipping (by decide) (by decide) (by decide) fun h => ?_
  by_cases bot : s.atTapeBottom = true
  · exact ⟨_, by rw [if_pos bot]; rfl, .trap .left h ((State.atTapeBottom_iff s).mp bot)⟩
  · exact ⟨_, by rw [if_neg bot]; rfl, .left h (fun c => bot ((State.atTapeBottom_iff s).mpr c))⟩

theorem execInc_effect (s : State) : ∃ t, execInc s = .next t ∧ Effect s .inc t :=
  Effect.unlessSkipping (by decide) (by decide) (by decide) fun h => ⟨_, rfl, .inc h⟩

theorem execDec_effect (s : State) : ∃ t, execDec s = .next t ∧ Effect s .dec t :=
  Effect.unlessSkipping (by decide) (by decide) (by decide) fun h => ⟨_, rfl, .dec h⟩

theorem execOutput_effect (s : State) : ∃ t, execOutput s = .next t ∧ Effect s .output t :=
  Effect.unlessSkipping (by decide) (by decide) (by decide) fun h => ⟨_, rfl, .output h⟩

theorem execComment_effect (b : Byte) (s : State) :
    ∃ t, execComment b s = .next t ∧ Effect s (.comment b) t :=
  Effect.unlessSkipping nofun nofun nofun fun h => ⟨_, rfl, .comment b h⟩

theorem execNul_effect (s : State) : ∃ t, execNul s = .next t ∧ Effect s .nul t := ⟨_, rfl, .nul⟩

theorem execInput_effect (s : State) : ∃ t, execInput s = .next t ∧ Effect s .input t := by
  refine Effect.unlessSkipping (by decide) (by decide) (by decide) fun h => ?_
  cases hi : s.input with
  | nil => exact ⟨_, rfl, .inputWait h hi⟩
  | cons b rest =>
    cases w : s.cfg.inputWriteback with
    | true =>
      exact ⟨_, by simp only [State.storeInput, State.takeInput_cfg, w, if_true]; rfl,
        .inputWrite b rest h hi w⟩
    | false =>
      exact ⟨_, by simp [State.storeInput, w, State.complete_regular], .inputDrop b rest h hi w⟩

theorem execLoopOpen_effect (s : State) :
    ∃ t, execLoopOpen s = .next t ∧ Effect s .loopOpen t := by
  unfold execLoopOpen
  rcases Nat.eq_zero_or_pos s.sk with h | h
  · rw [if_neg (by simp [State.skipping_iff, h])]
    by_cases z : s.cellIsZero = true
    · exact ⟨_, by rw [if_pos z]; rfl, .openSkip h ((State.cellIsZero_iff s).mp z)⟩
    · have nz : s.cell ≠ 0 := fun c => z ((State.cellIsZero_iff s).mpr c)
      by_cases full : s.stackFull = true
      · exact ⟨_, by rw [if_neg z, if_pos full]; rfl,
          .trap .loopOpen h ⟨nz, (State.stackFull_iff s).mp full⟩⟩
      · exact ⟨_, by rw [if_neg z, if_neg full]; rfl,
          .openPush h nz (fun c => full ((State.stackFull_iff s).mpr c))⟩
  · exact ⟨_, by rw [if_pos ((State.skipping_iff s).mpr h)]; rfl, .openNested h⟩

theorem execLoopClose_effect (s : State) :
    ∃ t, execLoopClose s = .next t ∧ Effect s .loopClose t := by
  unfold execLoopClose
  rcases Nat.eq_zero_or_pos s.sk with h | h
  · rw [if_neg (by simp [State.skipping_iff, h])]
    by_cases empty : s.stackEmpty = true
    · exact ⟨_, by rw [if_pos empty]; rfl, .trap .loopClose h ((State.stackEmpty_iff s).mp empty)⟩
    · have sp : s.sp ≠ 0 := fun c => empty ((State.stackEmpty_iff s).mpr c)
      by_cases z : s.cellIsZero = true
      · exact ⟨_, by rw [if_neg empty, if_pos z]; rfl,
          .closeExit h sp ((State.cellIsZero_iff s).mp z)⟩
      · exact ⟨_, by rw [if_neg empty, if_neg z]; rfl,
          .closeBack h sp (fun c => z ((State.cellIsZero_iff s).mpr c))⟩
  · refine ⟨_, ?_, .closeSkip h⟩
    rw [if_pos ((State.skipping_iff s).mpr h)]
    split <;> rfl

/-- Every instruction answers a next state, and that state is one of the cases (R104, R106). -/
theorem exec_effect (i : Instr) (s : State) : ∃ t, exec i s = .next t ∧ Effect s i t := by
  cases i with
  | nul => exact execNul_effect s
  | inc => exact execInc_effect s
  | input => exact execInput_effect s
  | dec => exact execDec_effect s
  | output => exact execOutput_effect s
  | left => exact execLeft_effect s
  | right => exact execRight_effect s
  | loopOpen => exact execLoopOpen_effect s
  | loopClose => exact execLoopClose_effect s
  | comment b => exact execComment_effect b s

/-- The inversion of `exec`. -/
theorem Effect.of_exec {i : Instr} {s t : State} (h : exec i s = .next t) : Effect s i t := by
  obtain ⟨u, hu, he⟩ := exec_effect i s
  rw [hu, Host.Outcome.next.injEq] at h
  exact h ▸ he

/-- The instruction a mode's step executes, as `State.fetched` names it (R102, R103). -/
theorem State.fetched_eq (s : State) (m : Mode) (space : CodeSpace) (hm : s.mode = some m)
    (hs : m.space = some space) : s.fetchedByte = s.codeAt space s.pc := by
  cases m <;> cases hs <;> simp [State.fetchedByte, hm]

/-- The inversion of `step`: the halted step, or a guarded step of the fetched instruction. -/
theorem step_effect {s t : State} (h : step s = .next t) :
    (s.mode = some .halt ∧ t = s.haltedStep) ∨
    ((s.mode = some .application ∨ s.mode = some .supervisor) ∧ s.invariantsHold = true ∧
      Effect s s.fetched t) := by
  rcases step_next_cases h with h | ⟨m, space, hm, hs, hi, he⟩
  · exact .inl h
  · refine .inr ⟨?_, hi, ?_⟩
    · cases m <;> cases hs <;> simp [hm]
    · rw [State.fetched, State.fetched_eq s m space hm hs]
      exact Effect.of_exec he

/-- A guarded step in Application or Supervisor is the meaning of the fetched instruction (R104). -/
theorem step_eq_exec_fetched (s : State)
    (hm : s.mode = some .application ∨ s.mode = some .supervisor) (hi : s.invariantsHold = true) :
    step s = exec s.fetched s := by
  rcases hm with hm | hm
  · rw [step_eq_exec s .application .acode hm rfl hi, State.fetched,
      State.fetched_eq s .application .acode hm rfl]
  · rw [step_eq_exec s .supervisor .scode hm rfl hi, State.fetched,
      State.fetched_eq s .supervisor .scode hm rfl]

end Sys2Proof.Machine
end

