-- ==== Sys2Proof/Laws/Parametric.lean ====
section
/-! SUPPORT. The two forms of a machine state: with the parameter (`State`) and without it (`CoreState`). -/

namespace Sys2Proof.Machine

@[simp] theorem CoreState.under_cfg (k : CoreState) (c : Config) : (k.under c).cfg = c := rfl

@[simp] theorem CoreState.under_toCoreState (k : CoreState) (c : Config) :
    (k.under c).toCoreState = k := rfl

/-- A state is its `CoreState` under its own parameter. -/
theorem State.eq_under (s : State) (c : Config) (h : s.cfg = c) : s = s.toCoreState.under c := by
  subst h
  rfl

end Sys2Proof.Machine
end

