-- ==== Sys2Proof/Laws/PerInstr.lean ====
section
/-! SUPPORT. The family of statements made for every instruction as syntax: the encoder writes the byte of
the instruction's own row of spec/opcode_table.json, and of no other row. -/

namespace Sys2Proof.Laws.TableRow

/-- The `match` byte of an instruction's row, for the nine rows whose mask is 0xFF; the comment row, whose
mask is 0x00, names none. -/
def rowMatch : Instr → Option Byte
  | .nul => some 0b00000000
  | .inc => some 0b00101011
  | .input => some 0b00101100
  | .dec => some 0b00101101
  | .output => some 0b00101110
  | .left => some 0b00111100
  | .right => some 0b00111110
  | .loopOpen => some 0b01011011
  | .loopClose => some 0b01011101
  | .comment _ => none

/-- The encoding of `i` is one byte; that byte is the one its row matches, and a well-formed comment's byte
is matched by no other row (R80 to R82). -/
def Statement (i : Instr) : Prop :=
  ∃ b : Byte, encode i = [b] ∧
    (∀ m, rowMatch i = some m → b = m) ∧
    (rowMatch i = none → i.wellFormed = true → ∀ j : Instr, rowMatch j ≠ some b)

theorem nul : Statement .nul := ⟨_, rfl, by simp [rowMatch, encodeByte], by simp [rowMatch]⟩

theorem inc : Statement .inc := ⟨_, rfl, by simp [rowMatch, encodeByte], by simp [rowMatch]⟩

theorem input : Statement .input := ⟨_, rfl, by simp [rowMatch, encodeByte], by simp [rowMatch]⟩

theorem dec : Statement .dec := ⟨_, rfl, by simp [rowMatch, encodeByte], by simp [rowMatch]⟩

theorem output : Statement .output := ⟨_, rfl, by simp [rowMatch, encodeByte], by simp [rowMatch]⟩

theorem left : Statement .left := ⟨_, rfl, by simp [rowMatch, encodeByte], by simp [rowMatch]⟩

theorem right : Statement .right := ⟨_, rfl, by simp [rowMatch, encodeByte], by simp [rowMatch]⟩

theorem loopOpen : Statement .loopOpen :=
  ⟨_, rfl, by simp [rowMatch, encodeByte], by simp [rowMatch]⟩

theorem loopClose : Statement .loopClose :=
  ⟨_, rfl, by simp [rowMatch, encodeByte], by simp [rowMatch]⟩

/-- A well-formed comment's byte is none of the nine, so no row with mask 0xFF matches it. -/
theorem comment (b : Byte) : Statement (.comment b) := by
  refine ⟨b, rfl, by simp [rowMatch], fun _ hwf j hj => ?_⟩
  have hb : b ∉ opcodeBytes := by simpa [Instr.wellFormed] using hwf
  apply hb
  cases j <;> simp only [rowMatch, Option.some.injEq, reduceCtorEq] at hj <;> subst hj <;> decide

end Sys2Proof.Laws.TableRow
end

