-- ==== Sys2Proof/Tests/Slice0.lean ====
section
/-! SUPPORT. Tests of the model. The expected results of the decoding tests are the spec's own encodings
(spec/30_encoding.md R81); those of the step and host tests are the vectors of spec/95_test_vectors.md,
whose numbers the names carry. The `witness_` theorems show, for each obligation with hypotheses, a concrete
state and operands that meet them, clause by clause and at the boundary of a range. -/

namespace Sys2Proof.Tests

open Sys2Proof Sys2Proof.Machine

/-! ### Well-formedness and decoding -/

theorem test_wellFormed_accepts_comment : (Instr.comment 0x61).wellFormed = true := by decide

theorem test_wellFormed_refuses_opcode_comments :
    (opcodeBytes.map (fun b => (Instr.comment b).wellFormed)) = List.replicate 9 false := by decide

theorem test_decode_nul : decode [0b00000000] = .ok (.nul, []) := rfl

theorem test_decode_inc : decode [0b00101011] = .ok (.inc, []) := rfl

theorem test_decode_input : decode [0b00101100] = .ok (.input, []) := rfl

theorem test_decode_dec : decode [0b00101101] = .ok (.dec, []) := rfl

theorem test_decode_output : decode [0b00101110] = .ok (.output, []) := rfl

theorem test_decode_left : decode [0b00111100] = .ok (.left, []) := rfl

theorem test_decode_right : decode [0b00111110] = .ok (.right, []) := rfl

theorem test_decode_loopOpen : decode [0b01011011] = .ok (.loopOpen, []) := rfl

theorem test_decode_loopClose : decode [0b01011101] = .ok (.loopClose, []) := rfl

theorem test_decode_comment : decode [0b01100001] = .ok (.comment 0x61, []) := rfl

/-- The next byte is the next instruction (R87), and no byte is no instruction. -/
theorem test_decode_takes_one_byte : decode [0x3E, 0x2E] = .ok (.right, [0x2E]) := rfl

theorem test_decode_no_byte : decode [] = .error .noByte := rfl

theorem test_decodeTableWord :
    decodeTableWord 8 0x5B = some .loopOpen ∧ decodeTableWord 8 0x00 = some .nul ∧
    decodeTableWord 8 0xFF = some (.comment 0xFF) ∧ decodeTableWord 8 0x100 = none ∧
    decodeTableWord 16 0x5B = none := by decide

/-! ### States and results -/

/-- The state an outcome leads to, if any. -/
def nextOf : StepOutcome → Option State
  | .next t => some t
  | .fault _ => none
  | .refused _ => none

/-- Application with the image `code` (the convention `A:` of spec/95_test_vectors.md). -/
def app (code : List Byte) : State := { State.reset with acode := Memory.ofList 0 0 code }

/-- Supervisor with the image `code` (the convention `S:`). -/
def sup (code : List Byte) : State :=
  { State.reset with sr := 0x010000, scode := Memory.ofList 0 0 code }

/-- `s` with a tape given as pairs. -/
def onTape (tape : List (Nat × Nat)) (s : State) : State := { s with tape := Memory.ofPairs 0 tape }

/-- `s` in a configuration changed by `f`, with a stack of its depth. -/
def inConfig (f : Config → Config) (s : State) : State :=
  { s with cfg := f s.cfg, stack := List.replicate (f s.cfg).sd 0 }

/-- What one step gives for a view of the next state. -/
def stepView {α : Type} (s : State) (view : State → α) : Option α := (nextOf (step s)).map view

/-! ### One step: the vectors of spec/95_test_vectors.md -/

theorem test_T1_right : stepView { app [0x3E] with tp := 5 } (fun t => (t.tp, t.pc, t.answer)) =
    some (6, 1, .pair 1 1) := by decide

/-- The fixture W8. -/
theorem test_T2_right_traps :
    stepView (onTape [(1023, 0x61)] { app [0x3E] with tp := 1023 })
      (fun t => (t.sr, t.pc, t.tp, t.inactivePc, t.answer)) =
    some (0x1613E, 0, 1023, 0, .pair 1 1) := by decide

theorem test_T5_left : stepView { app [0x3C] with tp := 6 } (fun t => (t.tp, t.pc)) =
    some (5, 1) := by decide

theorem test_T7_left_double_fault :
    stepView { sup [0x3C] with sr := 0x01073C } (fun t => (t.sr, t.pc, t.tp, t.inactivePc)) =
    some (0x02073C, 0, 0, 0) := by decide

theorem test_A2_inc_wraps : stepView (onTape [(0, 0xFF)] (app [0x2B])) (fun t => (t.tape, t.pc)) =
    some ([], 1) := by decide

theorem test_A5_inc_wide :
    stepView (inConfig (fun c => { c with tw := 16 }) (onTape [(0, 0x00FF)] (app [0x2B])))
      (fun t => t.tapeAt 0) = some 0x0100 := by decide

theorem test_A3_dec_wraps : stepView (app [0x2D]) (fun t => (t.tapeAt 0, t.pc)) =
    some (0xFF, 1) := by decide

theorem test_A8_dec_widest :
    stepView (inConfig (fun c => { c with tw := 128 }) (app [0x2D])) (fun t => t.tapeAt 0) =
    some (2 ^ 128 - 1) := by decide

/-- L1: the pushed value is the address of the `[` itself. -/
theorem test_L1_open_pushes :
    stepView (onTape [(0, 1)] { app [0, 0, 0, 0x5B] with pc := 3 })
      (fun t => (t.stack[0]?, t.sp, t.pc)) = some (some 3, 1, 4) := by decide

/-- L5: the zero test comes before the depth check. -/
theorem test_L5_open_skips_on_full_stack :
    stepView { inConfig (fun c => { c with sd := 1 }) (app [0x5B]) with sp := 1 }
      (fun t => (t.sk, t.pc, t.sp, t.mode)) = some (1, 1, 1, some .application) := by decide

theorem test_L7_close_loops_back :
    stepView
      (onTape [(0, 1)]
        { app [0, 0, 0, 0, 0, 0, 0, 0, 0x5D] with pc := 8, sp := 2, stack := [0, 5, 0, 0] })
      (fun t => (t.sp, t.pc, t.answer)) = some (1, 5, .pair 1 1) := by decide

/-- L10: the end of a skip never traps, even with an empty stack. -/
theorem test_L10_close_ends_skip :
    stepView { app [0, 0, 0, 0, 0, 0, 0, 0, 0x5D] with pc := 8, sk := 1 }
      (fun t => (t.sk, t.pc, t.sp)) = some (0, 9, 0) := by decide

theorem test_I2_output_low_byte :
    stepView (inConfig (fun c => { c with tw := 16 }) (onTape [(0, 0x1234)] (app [0x2E])))
      (fun t => (t.output, t.pc)) = some ([0x34], 1) := by decide

theorem test_S6_output_skipped : stepView { app [0x2E] with sk := 1 } (fun t => (t.output, t.pc)) =
    some ([], 1) := by decide

/-- I5: the byte is zero-extended over the old cell. -/
theorem test_I5_input_zero_extends :
    stepView
      (inConfig (fun c => { c with tw := 16 })
        (onTape [(0, 0xABCD)] { app [0x2C] with input := [0xFF] }))
      (fun t => (t.tapeAt 0, t.consumed, t.pc)) = some (0x00FF, 1, 1) := by decide

/-- I4: with `INPUT_WRITEBACK = false` the byte is consumed and discarded. -/
theorem test_I4_input_discards :
    stepView
      (inConfig (fun c => { c with inputWriteback := false })
        (onTape [(0, 7)] { app [0x2C] with input := [0x41] }))
      (fun t => (t.tapeAt 0, t.consumed, t.input)) = some (7, 1, []) := by decide

theorem test_H2_nul_in_supervisor :
    stepView { sup [0x2B, 0x2B] with sr := 0x01613E, pc := 2 } (fun t => (t.sr, t.pc, t.answer)) =
    some (0x02613E, 2, .pair 1 1) := by decide

/-- W6: the implicit NUL halts in the middle of a skip. -/
theorem test_H3_nul_mid_skip : stepView { app [] with sk := 3, pc := 7 } (fun t => (t.sr, t.sk, t.pc)) =
    some (0x020000, 3, 7) := by decide

theorem test_S3_comment : stepView (app [0x78]) (fun t => (t.pc, t.answer)) =
    some (1, .pair 1 0) := by decide

theorem test_S4_comment_skipped :
    stepView { app [0x78] with sk := 2 } (fun t => (t.pc, t.sk, t.answer)) =
    some (1, 2, .pair 1 1) := by decide

/-! ### The step engine, the host and the probe word -/

theorem test_S1_halted_step :
    stepView { app [0x2B] with sr := 0x020000 } (fun t => (t.pc, t.tape, t.answer)) =
    some (0, [], .pair 0 1) := by decide

/-- S9: the fetch is from the supervisor store. -/
theorem test_S9_store_of_the_mode :
    stepView { sup [0x2B] with acode := Memory.ofList 0 0 [0x2D] } (fun t => t.tapeAt 0) =
    some 1 := by decide

theorem test_S10_unsupported_mode : step { app [0x2B] with sr := 0x030000 } = .fault .unsupportedMode :=
  rfl

theorem test_K_configurations :
    [Config.standard, { Config.standard with tl := some 9 }, { Config.standard with tl := some 128 },
      { Config.standard with tw := 12 }, { Config.standard with tw := 136 },
      { Config.standard with nm := 1 }, { Config.standard with sd := 0 },
      { Config.standard with il := 31 }, { Config.standard with tl := none }].map Config.valid =
    [true, false, false, false, false, false, false, false, true] := by decide

theorem test_G_register_access :
    (serve (.regGet "acc") State.reset).2 = .failed .unknownRegister ∧
    (serve (.regSet "sp" 5) State.reset).2 = .failed .invalidValue ∧
    (serve (.regSet "sr" 0x030000) State.reset).2 = .failed .invalidValue ∧
    (serve (.regSet "sr" 0x1000000) State.reset).2 = .failed .invalidValue ∧
    (serve (.regSet "tp" 1024) State.reset).2 = .failed .invalidValue ∧
    (serve (.regSet "inactive_pc" 64) State.reset).2 = .done := by decide

theorem test_X2_return :
    serve .ret { State.reset with inactivePc := 5, inactiveSp := 2, sr := 0x01033C } =
    ({ State.reset with pc := 5, sp := 2, sr := 0x00033C }, .done) := by decide

theorem test_X4_return_in_halt :
    serve .ret { State.reset with inactivePc := 5, sr := 0x02033C } =
    ({ State.reset with inactivePc := 5, sr := 0x02033C }, .done) := by decide

/-- I6: with no byte supplied the step waits, and the supplied byte completes it. -/
theorem test_I6_input_waits :
    (serve .step (app [0x2C])).2 = .stepped .waiting ∧
    (serve (.supply 0x41) (serve .step (app [0x2C])).1).1.tapeAt 0 = 0x41 := by decide

/-- R218: a supply is refused while no step waits. -/
theorem test_supply_refused :
    serve (.supply 0x41) (app [0x2C]) = (app [0x2C], .failed .notWaiting) := by decide

theorem test_probe_word :
    stepView (State.reset.withFetchWord 8 0x2B) (fun t => (t.tapeAt 0, t.pc)) = some (1, 1) ∧
    stepView (State.reset.withFetchWord 8 0x00) (fun t => t.mode) = some (some .halt) := by decide

/-! ### Witnesses for the hypotheses of the obligations -/

/-- A state at every bound of R35 at once, in the middle of a skip: it is no reset state. -/
def edge : State :=
  { State.reset with
    pc := 64, tp := 1023, sp := 4, sk := 64, inactivePc := 64, inactiveSp := 4, inactiveSk := 64,
    stack := [0, 1, 62, 63], tape := [(0, 1), (1023, 255)], acode := [(63, 0x5D)],
    scode := [(0, 0x2B)], output := [0x00], consumed := 1 }

/-- `edge` after a host's `reg_set sk` and a nested `[`: `sk` is one above `il`. -/
def overSkip : State := { edge with sk := 65 }

theorem witness_SessionInv : SessionInv overSkip := by
  constructor <;> decide

theorem witness_RunInv : RunInv edge :=
  { toSessionInv := by constructor <;> decide, skLePc := by decide, inactiveSkLePc := by decide }

theorem witness_CommentsAreTheOtherBytes :
    State.reset.sk = 0 ∧ decodeByte 0x61 = .comment 0x61 := by decide

theorem witness_DecodeEncodeRoundTrip :
    (Instr.wellFormed .loopClose = true ∧ (Instr.comment 0xFF).wellFormed = true) ∧
    encode (.comment 0xFF) = encode (.comment 0xFF) := by decide

/-- The smallest legal configuration. -/
def smallest : Config := ⟨some 10, 8, 2, 1, 32, true, none⟩

/-- A configuration at the upper end of the ranges that have one. -/
def largest : Config := ⟨some 127, 128, 3, 1, 32, false, none⟩

theorem witness_ConstructionChecksConfig_lower :
    (∀ e, smallest.tl = some e → 10 ≤ e ∧ e ≤ 127) ∧
      (8 ≤ smallest.tw ∧ smallest.tw ≤ 128 ∧ 8 ∣ smallest.tw) ∧
      (smallest.nm = 2 ∨ smallest.nm = 3) ∧ 1 ≤ smallest.sd ∧ 32 ≤ smallest.il := by simp [smallest]

theorem witness_ConstructionChecksConfig_upper :
    (∀ e, largest.tl = some e → 10 ≤ e ∧ e ≤ 127) ∧
      (8 ≤ largest.tw ∧ largest.tw ≤ 128 ∧ 8 ∣ largest.tw) ∧
      (largest.nm = 2 ∨ largest.nm = 3) ∧ 1 ≤ largest.sd ∧ 32 ≤ largest.il := by simp [largest]

/-- One more than the largest exponent: the second clause's hypothesis. -/
theorem witness_ConstructionChecksConfig_illegal :
    ¬ ((∀ e, { largest with tl := some 128 }.tl = some e → 10 ≤ e ∧ e ≤ 127) ∧
      (8 ≤ largest.tw ∧ largest.tw ≤ 128 ∧ 8 ∣ largest.tw) ∧
      (largest.nm = 2 ∨ largest.nm = 3) ∧ 1 ≤ largest.sd ∧ 32 ≤ largest.il) := by simp [largest]

theorem witness_ResetZeroesRegisters : construct Config.standard = .ok (State.initial Config.standard) :=
  rfl

theorem witness_ResetRequestRestoresCore :
    Config.valid { Config.standard with il := 31 } = false ∧ Config.valid Config.standard = true ∧
    edge.answer ≠ .waiting := by decide

theorem witness_FirstStepRunsApplicationByteZero :
    (∃ s, boot Config.standard [0x2B] [] [(1023, 255)] [0x41] = .ok s) ∧
    edge.cfg.valid = true ∧ ∃ t, serve .reset edge = (t, .done) := ⟨⟨_, rfl⟩, by decide, ⟨_, rfl⟩⟩

theorem witness_StepRunsDecodedInstruction :
    ((app [0x2B]).mode = some .application ∧ (app [0x2B]).invariantsHold = true) ∧
    ((sup [0x2B]).mode = some .supervisor ∧ (sup [0x2B]).invariantsHold = true) ∧
    3 ≤ (srMode (0x030000 : BitVec 24)).toNat ∧ 3 ≤ (srMode (0xFFFFFF : BitVec 24)).toNat := by decide

theorem witness_HaltedStepTouchesNothing :
    { edge with sr := 0x02015B }.mode = some .halt := by decide

theorem witness_InternalErrorsChangeNothing :
    { edge with sr := 0x030000 }.answer ≠ .waiting ∧
    step { edge with sr := 0x030000 } = .fault .unsupportedMode ∧
    step { edge with sp := 5 } = .fault .invariantViolated := ⟨by decide, rfl, rfl⟩

/-- Each check of R109 at the first value that fails it. -/
theorem witness_GuardStopsBrokenStates :
    edge.mode = some .application ∧ edge.cfg.sd < 5 ∧ edge.cfg.tl = some 10 ∧ 2 ^ 10 ≤ 1024 ∧
    edge.cfg.il < 65 := by decide

theorem witness_SkipOnlyMovesPc :
    0 < edge.sk ∧ Instr.right ≠ .loopOpen ∧ Instr.right ≠ .loopClose ∧ Instr.right ≠ .nul := by decide

theorem witness_SkipMachineTable :
    ((app [0x5B]).sk = 0 ∧ (app [0x5B]).tapeAt (app [0x5B]).tp = 0) ∧
    ((app [0x2B]).sk = 0 ∧ (nextOf (exec .inc (app [0x2B]))).isSome = true) ∧
    0 < edge.sk := by decide

/-- A halted step, a comment and a Regular step, each with a next state that does not wait. -/
theorem witness_CyclesOfAStep :
    stepView { edge with sr := 0x020000 } (fun t => t.answer) = some (.pair 0 1) ∧
    stepView (app [0x61]) (fun t => t.answer) = some (.pair 1 0) ∧
    stepView (app [0x3E]) (fun t => t.answer) = some (.pair 1 1) := by decide

/-- A step that halts, one that traps, one that loops back, and one that goes on. -/
theorem witness_PcAfterAStep :
    stepView edge (fun t => (t.mode, t.answer)) = some (some .halt, .pair 1 1) ∧
    stepView (app [0x3C]) (fun t => (t.mode, t.pc)) = some (some .supervisor, 0) ∧
    stepView { onTape [(0, 1)] (app [0x2B, 0x5D]) with pc := 1, sp := 1 } (fun t => t.pc) = some 0 ∧
    stepView (app [0x2B]) (fun t => t.pc) = some 1 := by decide

/-- A supply to a state that meets the invariant and waits, and a tape load. -/
theorem witness_RequestsKeepRunInv :
    RunInv edge ∧ (∀ name v, Request.loadTape [(1023, 255)] ≠ .regSet name v) ∧
    ∀ name v, Request.supply 0x41 ≠ .regSet name v :=
  ⟨witness_RunInv, nofun, nofun⟩

/-- An illegal configuration, a legal one, and a step of its machine with a next state. -/
theorem witness_ConfigurationIsAParameter :
    { largest with tl := some 128 }.valid = false ∧ largest.valid = true ∧
    ∃ k, stepIn largest (State.initial largest).toCoreState = .next k :=
  ⟨by decide, by decide, _, rfl⟩

theorem witness_StepKeepsInv : RunInv edge ∧ ∃ t, step edge = .next t := ⟨witness_RunInv, _, rfl⟩

/-- The last cell from which `>` moves. -/
def rightMoves : State := { app [] with tp := 1022 }

/-- The last cell of the tape, in Application. -/
def rightTraps : State := { app [] with tp := 1023 }

/-- The last cell of the tape, in Supervisor. -/
def rightDoubleFaults : State := { sup [] with tp := 1023 }

/-- A tape without an end. -/
def endless : State :=
  { inConfig (fun c => { c with tl := none }) (app []) with tp := 1023 }

theorem witness_RightMovesOrTraps :
    (rightMoves.sk = 0 ∧ rightMoves.cfg.tl = some 10 ∧ rightMoves.tp + 1 ≠ 2 ^ 10) ∧
    (endless.sk = 0 ∧ endless.cfg.tl = none) ∧
    (rightTraps.sk = 0 ∧ rightTraps.cfg.tl = some 10 ∧ rightTraps.tp + 1 = 2 ^ 10 ∧
      rightTraps.mode = some .application) ∧
    (rightDoubleFaults.sk = 0 ∧ rightDoubleFaults.cfg.tl = some 10 ∧
      rightDoubleFaults.tp + 1 = 2 ^ 10 ∧ rightDoubleFaults.mode = some .supervisor) := by decide

/-- The first cell from which `<` moves. -/
def leftMoves : State := { app [] with tp := 1 }

theorem witness_LeftMovesOrTraps :
    (leftMoves.sk = 0 ∧ leftMoves.tp ≠ 0) ∧
    ((app []).sk = 0 ∧ (app []).tp = 0 ∧ (app []).mode = some .application) ∧
    ((sup []).sk = 0 ∧ (sup []).tp = 0 ∧ (sup []).mode = some .supervisor) := by decide

/-- `+` and `-` need only `sk = 0`; so do `.` and the first clause of a comment. -/
theorem witness_IncrementWraps_DecrementWraps_OutputSendsLowByte_CommentIsNop :
    (onTape [(0, 255)] (app [])).sk = 0 ∧ 0 < edge.sk := by decide

/-- A nonzero cell with `depth` entries on the call stack of four, in the mode of `s`. -/
def loopAt (depth : Nat) (s : State) : State := { onTape [(0, 1)] s with sp := depth }

/-- The cases of `[`: skipping, a zero cell over a full stack, a full stack in both modes, one entry left. -/
theorem witness_LoopOpenCases :
    0 < edge.sk ∧
    ({ app [] with sp := 4 }.sk = 0 ∧ { app [] with sp := 4 }.tapeAt 0 = 0) ∧
    ((loopAt 4 (app [])).sk = 0 ∧ (loopAt 4 (app [])).tapeAt (loopAt 4 (app [])).tp ≠ 0 ∧
      (loopAt 4 (app [])).sp = (loopAt 4 (app [])).cfg.sd ∧
      (loopAt 4 (app [])).mode = some .application) ∧
    ((loopAt 4 (sup [])).sk = 0 ∧ (loopAt 4 (sup [])).tapeAt (loopAt 4 (sup [])).tp ≠ 0 ∧
      (loopAt 4 (sup [])).sp = (loopAt 4 (sup [])).cfg.sd ∧
      (loopAt 4 (sup [])).mode = some .supervisor) ∧
    ((loopAt 3 (app [])).sk = 0 ∧ (loopAt 3 (app [])).tapeAt (loopAt 3 (app [])).tp ≠ 0 ∧
      (loopAt 3 (app [])).sp ≠ (loopAt 3 (app [])).cfg.sd) := by decide

/-- The cases of `]`: the last skip level, an empty stack in both modes, one entry with a nonzero cell, and
a full stack with a zero cell. -/
theorem witness_LoopCloseCases :
    0 < { app [] with sk := 1 }.sk ∧
    ((app []).sk = 0 ∧ (app []).sp = 0 ∧ (app []).mode = some .application) ∧
    ((sup []).sk = 0 ∧ (sup []).sp = 0 ∧ (sup []).mode = some .supervisor) ∧
    ((loopAt 1 (app [])).sk = 0 ∧ 0 < (loopAt 1 (app [])).sp ∧
      (loopAt 1 (app [])).tapeAt (loopAt 1 (app [])).tp ≠ 0 ∧
      (loopAt 1 (app [])).stack[(loopAt 1 (app [])).sp - 1]? = some 0) ∧
    ({ app [] with sp := 4 }.sk = 0 ∧ 0 < { app [] with sp := 4 }.sp ∧
      { app [] with sp := 4 }.tapeAt 0 = 0) := by decide

theorem witness_InputReadsAByte :
    { app [] with input := [0xFF, 0x00] }.sk = 0 ∧
    { app [] with input := [0xFF, 0x00] }.input = 0xFF :: [0x00] ∧
    (app []).cfg.inputWriteback = true ∧
    (inConfig (fun c => { c with inputWriteback := false }) (app [])).cfg.inputWriteback = false := by
  decide

theorem witness_TrapEntryFromApplication_TrapElsewhereIsDoubleFault :
    (app []).mode = some .application ∧ (sup []).mode ≠ some .application ∧
    { app [] with sr := 0x020000 }.mode ≠ some .application := by decide

/-- A step of Application that traps: the hypotheses of the statements about trap causes. -/
theorem witness_TrapCause_left : (app [0x3C]).TrapCause :=
  ⟨by decide, Or.inr (Or.inl ⟨by decide, by decide⟩)⟩

theorem witness_TrapCause_right : { app [0x3E] with tp := 1023 }.TrapCause :=
  ⟨by decide, Or.inl ⟨by decide, 10, by decide, by decide⟩⟩

theorem witness_TrapCause_loopOpen : { onTape [(0, 1)] (app [0x5B]) with sp := 4 }.TrapCause :=
  ⟨by decide, Or.inr (Or.inr (Or.inl ⟨by decide, by decide, by decide⟩))⟩

theorem witness_TrapCause_loopClose : (sup [0x5D]).TrapCause :=
  ⟨by decide, Or.inr (Or.inr (Or.inr ⟨by decide, by decide⟩))⟩

/-- The states of `TrapCausesExactly`, `TrapsArePrecise`, `ReturnReexecutesFaultingStep` and
`EmptySupervisorHaltsAfterTrap`: a trapping step of Application over an empty supervisor store, and one of
Supervisor. -/
theorem witness_trapping_steps :
    ((app [0x3C]).mode = some .application ∧ (app [0x3C]).scode = [] ∧
      (nextOf (step (app [0x3C]))).isSome = true) ∧
    ((sup [0x5D]).mode = some .supervisor ∧ (nextOf (step (sup [0x5D]))).isSome = true) := by decide

/-- The six rows of R211 that change the mode, each by a request. -/
theorem witness_ModeChangesOnlyByTheTable :
    (serve .step (app [0x3C])).1.mode = some .supervisor ∧
    (serve .step (app [])).1.mode = some .halt ∧ (serve .step (sup [0x5D])).1.mode = some .halt ∧
    (serve .ret (sup [])).1.mode = some .application ∧
    (serve .reset (sup [])).1.mode = some .application ∧
    (serve (.regSet "sr" 0x00613E) { app [] with sr := 0x02613E }).1.mode = some .application := by
  decide

theorem witness_ReturnRestoresShadows :
    (sup []).answer ≠ .waiting ∧ (sup []).mode = some .supervisor ∧
    (app []).answer ≠ .waiting ∧ (app []).mode ≠ some .supervisor := by decide

theorem witness_RegisterReads :
    edge.answer ≠ .waiting ∧ { edge with answer := .waiting }.answer = .waiting ∧
    "acc" ∉ ["pc", "tp", "sp", "sk", "sr", "inactive_pc", "inactive_sp", "inactive_sk"] := by decide

/-- The last legal value of each bounded register, and the first that is refused. -/
theorem witness_RegisterWrites :
    edge.answer ≠ .waiting ∧ (serve (.regSet "pc" 64) edge).2 = .done ∧
    (serve (.regSet "pc" 65) edge).2 = .failed .invalidValue ∧
    (edge.cfg.tl = some 10 ∧ 1023 < 2 ^ 10 ∧ 2 ^ 10 ≤ 1024) ∧
    (serve (.regSet "sp" 4) edge).2 = .done ∧
    (serve (.regSet "sp" 5) edge).2 = .failed .invalidValue ∧
    (serve (.regSet "sr" 0x02FFFF) edge).2 = .done ∧
    (serve (.regSet "sr" 0x030000) edge).2 = .failed .invalidValue := by decide

/-- An unbounded tape whose `tp` has a width of 64 bits (R13). -/
theorem witness_RegisterWrites_unbounded :
    (inConfig (fun c => { c with tl := none, tpWUnbounded := some 64 }) (app [])).cfg.tl = none ∧
    (inConfig (fun c => { c with tl := none, tpWUnbounded := some 64 }) (app [])).cfg.tpWUnbounded =
      some 64 ∧ 2 ^ 64 - 1 < 2 ^ 64 := by decide

theorem witness_CanonicalStoresAreExtensional :
    Memory.wf 0 ([(3, 1), (1023, 255)] : List (Nat × Nat)) = true ∧
    Memory.wf 0 ([(0, 0x2B)] : List Host.Cell) = true := by decide

/-- A full image, and one byte more. -/
theorem witness_CodeLoadReadsBack :
    edge.answer ≠ .waiting ∧ (List.replicate 64 (0x2B : Byte)).length ≤ edge.cfg.il ∧
    edge.cfg.il < (List.replicate 65 (0x2B : Byte)).length := by decide

theorem witness_RunningOffTheImageHalts :
    (∃ t, serve (.loadCode .acode [0x2B]) { app [] with pc := 1 } = (t, .done)) ∧
    { app [] with pc := 1 }.mode = some .application ∧ Mode.application ≠ .halt ∧
    (CodeSpace.acode = .scode ↔ Mode.application = .supervisor) ∧
    { app [] with pc := 1 }.invariantsHold = true ∧ ([0x2B] : List Byte).length ≤ 1 :=
  ⟨⟨_, rfl⟩, by decide, by decide, by decide, by decide, by decide⟩

theorem witness_TapeLoadReadsBack :
    edge.answer ≠ .waiting ∧ edge.cfg.tw = 8 ∧ ([0x01, 0xFF] : List Byte).length ≤ 2 ^ 10 ∧
    (([(0, 255), (1023, 1)] : List (Nat × Nat)).map (·.1)).Nodup ∧ 255 < 2 ^ edge.cfg.tw ∧
    1023 < 2 ^ 10 := by decide

theorem witness_OnlyLoadsWriteCode : ∀ space image, Request.step ≠ .loadCode space image := by
  intro space image h
  cases h

/-- Steps that have a next state: a store to the tape, a skipped one, and a halted one. -/
theorem witness_StepWritesTapeOnlyAtTp_StepRegisterWriters_StepKeepsStreamOrder :
    (nextOf (step (app [0x2B]))).isSome = true ∧
    (nextOf (step { app [0x2B] with sk := 1 })).isSome = true ∧
    (nextOf (step { app [0x2B] with sr := 0x020000 })).isSome = true := by decide

theorem witness_StepIgnoresTheOtherCodeStore :
    ((app [0x2B]).mode = some .application ∧ (nextOf (step (app [0x2B]))).isSome = true) ∧
    step { app [0x2B] with sp := 5 } = .fault .invariantViolated ∧
    ((sup [0x2B]).mode = some .supervisor ∧ (nextOf (step (sup [0x2B]))).isSome = true) ∧
    step { sup [0x2B] with sp := 5 } = .fault .invariantViolated :=
  ⟨by decide, rfl, by decide, rfl⟩

theorem witness_WaitingStepLocksTheHost :
    { app [0x2C] with answer := .waiting }.answer = .waiting ∧ Request.step ≠ .takeOutput ∧
    ∀ b, Request.step ≠ .supply b := by decide

theorem witness_SupplyNeedsAWaitingStep :
    edge.answer ≠ .waiting ∧ { edge with sr := 0x020000 }.answer ≠ .waiting := by decide

theorem witness_SupplyCompletesWaitingStep :
    ((app [0x2C]).sk = 0 ∧ (app [0x2C]).input = []) ∧
    stepView (app [0x2C]) (fun t => t.answer) = some .waiting := by decide

/-- A `]` with a nonzero cell whose popped entry is the address of its `[`. -/
def backEdge : State := { onTape [(0, 1)] (app [0x5B, 0x5D]) with pc := 1, sp := 1 }

theorem witness_LoopBackReentersTheBody :
    backEdge.mode = some .application ∧ backEdge.sk = 0 ∧ backEdge.fetched = .loopClose ∧
    0 < backEdge.sp ∧ backEdge.tapeAt backEdge.tp ≠ 0 ∧
    stepView backEdge State.fetched = some .loopOpen := by decide

theorem witness_HaltedForEver : { edge with sr := 0x02FFFF }.mode = some .halt := by decide

theorem witness_RunAlwaysEnds_RegistersFitTheirWidths : RunInv edge ∧ edge.cfg.tl = some 10 :=
  ⟨witness_RunInv, rfl⟩

end Sys2Proof.Tests
end

section
/-! Proofs about the registers of spec/10_state.md: their values after construction (R36) and the packing
of the status register (R26). -/

namespace Sys2Proof.Machine

/-- The inversion of construction: it succeeds on a valid configuration alone, with the initial state
(R36, R250). -/
theorem construct_eq_ok_iff (c : Config) (s : State) :
    construct c = .ok s ↔ c.valid = true ∧ s = State.initial c := by
  unfold construct
  split
  · next valid => simp only [valid, true_and, Except.ok.injEq, eq_comm]
  · next invalid => simp only [invalid, reduceCtorEq, Bool.false_eq_true, false_and]

/-- The packed register as a number: each field shifted to its place (R26). -/
theorem toNat_packSr (op cell : Byte) (m : Mode) :
    (packSr op cell m).toNat = op.toNat ||| (cell.toNat <<< 8) ||| (m.ordinal.toNat <<< 16) :=
  calc (packSr op cell m).toNat
    _ = (m.ordinal.toNat <<< 8 ||| cell.toNat) <<< 8 ||| op.toNat := by
      simp only [packSr, BitVec.toNat_append]
    _ = m.ordinal.toNat <<< 16 ||| cell.toNat <<< 8 ||| op.toNat := by
      rw [Nat.shiftLeft_or_distrib, ← Nat.shiftLeft_add]
    _ = op.toNat ||| cell.toNat <<< 8 ||| m.ordinal.toNat <<< 16 := by
      ac_rfl

/-- Settles O5: construction succeeds only with `State.initial`, whose registers are the zeros of R36. -/
theorem resetZeroesRegisters : Obligations.ResetZeroesRegisters := by
  intro c s hs
  obtain ⟨-, rfl⟩ := (construct_eq_ok_iff c s).mp hs
  have hop : srOp (0 : BitVec 24) = 0 := by decide
  have hcell : srCell (0 : BitVec 24) = 0 := by decide
  exact ⟨rfl, rfl, rfl, rfl, rfl, rfl, rfl, rfl, hop, hcell, State.initial_mode c⟩

/-- Settles O38: the packing as a number, the field reads of the model's laws, and R26's fixture. -/
theorem statusRegisterPacking : Obligations.StatusRegisterPacking := by
  have fixture : packSr 0x3E 0x61 .supervisor = 0x1613E := by decide
  exact ⟨fun op cell m =>
    ⟨toNat_packSr op cell m, srOp_packSr op cell m, srCell_packSr op cell m, srMode_packSr op cell m⟩,
    rfl, rfl, rfl, fixture⟩

end Sys2Proof.Machine
end

section
/-! Proofs about the external stores of spec/20_memory.md: what a load leaves in a code store (R54) and on the
tape (R71), and that nothing but a load writes a code store (R56). -/

namespace Sys2Proof.Machine

/-! ### The gate of a request (R110) -/

/-- While no step waits, a request has its own result. -/
theorem State.betweenSteps_of_not_waiting {s : State} (h : s.answer ≠ .waiting) (r : State × Reply) :
    s.betweenSteps r = r :=
  if_neg (by simpa [State.isWaiting] using h)

/-- A request made between steps leaves its own state or, while a step waits, the old one. -/
theorem State.betweenSteps_fst (s : State) (r : State × Reply) :
    (s.betweenSteps r).1 = s ∨ (s.betweenSteps r).1 = r.1 := by
  unfold State.betweenSteps
  split
  · exact .inl rfl
  · exact .inr rfl

/-- Of a request that may fail, the state is the old one or the one it succeeds with. -/
theorem State.orFailed_fst (s : State) (e : Except HostError State) :
    (s.orFailed e).1 = s ∨ e = .ok (s.orFailed e).1 := by
  cases e with
  | ok t => exact .inr rfl
  | error e => exact .inl rfl

/-! ### Loading a code store (R54) -/

/-- The state with the contents of one code store replaced. -/
def State.withCode (s : State) (space : CodeSpace) (m : List Host.Cell) : State :=
  match space with
  | .acode => { s with acode := m }
  | .scode => { s with scode := m }

theorem State.loadCode_of_le {s : State} {image : List Byte} (space : CodeSpace)
    (h : image.length ≤ s.cfg.il) :
    s.loadCode space image = .ok (s.withCode space (Memory.ofList 0 0 image)) := by
  cases space <;> exact if_pos h

theorem State.loadCode_of_lt {s : State} {image : List Byte} (space : CodeSpace)
    (h : s.cfg.il < image.length) : s.loadCode space image = .error .imageTooLong :=
  if_neg (Nat.not_le.mpr h)

theorem State.withCode_eq (s : State) (space : CodeSpace) (m : List Host.Cell) :
    s.withCode space m =
      { s with acode := (s.withCode space m).acode, scode := (s.withCode space m).scode } := by
  cases space <;> rfl

theorem State.codeAt_withCode_same (s : State) (space : CodeSpace) (m : List Host.Cell) (a : Nat) :
    (s.withCode space m).codeAt space a = Memory.read m 0 a := by
  cases space <;> rfl

theorem State.codeAt_withCode_other (s : State) {space other : CodeSpace} (m : List Host.Cell)
    (h : other ≠ space) (a : Nat) : (s.withCode space m).codeAt other a = s.codeAt other a := by
  cases space with
  | acode =>
    cases other with
    | acode => exact absurd rfl h
    | scode => rfl
  | scode =>
    cases other with
    | acode => rfl
    | scode => exact absurd rfl h

/-- Settles O42: a load that fits replaces one store, whose reads are those of `Memory.ofList`. -/
theorem codeLoadReadsBack : Obligations.CodeLoadReadsBack := by
  intro s space image notWaiting
  have served : serve (.loadCode space image) s = s.orFailed (s.loadCode space image) :=
    State.betweenSteps_of_not_waiting notWaiting _
  refine ⟨fun fits => ⟨s.withCode space (Memory.ofList 0 0 image), ?_, s.withCode_eq space _,
    fun other ho a => s.codeAt_withCode_other _ ho a, fun a => ?_⟩, fun long => ?_⟩
  · rw [served, State.loadCode_of_le space fits]
    rfl
  · have readBack := Memory.read_ofList (0 : Byte) image 0 a
    rw [Nat.zero_add] at readBack
    rw [s.codeAt_withCode_same, readBack]
    split
    · next inside => exact List.getD_eq_getElem image 0 inside
    · next beyond => exact List.getD_eq_default image 0 (Nat.not_lt.mp beyond)
  · rw [served, State.loadCode_of_lt space long]
    rfl

/-! ### Loading the tape (R71) -/

/-- A loaded map reads back the value of each listed address, no address being listed twice. -/
theorem Memory.read_ofPairs_of_mem {α : Type} [DecidableEq α] (d : α) {l : List (Nat × α)}
    (distinct : (l.map (·.1)).Nodup) {a : Nat} {v : α} (h : (a, v) ∈ l) :
    Memory.read (Memory.ofPairs d l) d a = v := by
  induction l with
  | nil => cases h
  | cons e l ih =>
    obtain ⟨head, tail⟩ := List.nodup_cons.mp distinct
    rw [Memory.ofPairs, Memory.read_write]
    rcases List.mem_cons.mp h with rfl | h
    · exact if_pos rfl
    · have later : a ≠ e.1 := fun same => head (List.mem_map.mpr ⟨_, h, same⟩)
      rw [if_neg later, ih tail h]

/-- A loaded map reads the unlisted unit at every address it does not list. -/
theorem Memory.read_ofPairs_of_not_mem {α : Type} [DecidableEq α] (d : α) {l : List (Nat × α)} {a : Nat}
    (h : a ∉ l.map (·.1)) : Memory.read (Memory.ofPairs d l) d a = d :=
  Memory.read_absent d _ a fun e he same =>
    h (List.mem_map.mpr ⟨e, Memory.mem_ofPairs d l e he, same⟩)

/-- An entry of the tape image is a cell of the tape and a value below `2^tw` (R7, R22). -/
theorem Config.validCell_iff (c : Config) (e : Nat × Nat) :
    Config.validCell c e = true ↔ e.2 < 2 ^ c.tw ∧ ∀ n, c.tl = some n → e.1 < 2 ^ n := by
  unfold Config.validCell Config.cellValues
  rw [Bool.and_eq_true, decide_eq_true_eq, onTape_iff, and_comm]
  unfold Config.tapeLength
  cases c.tl <;> simp

/-- The inversion of a tape load: an image of legal entries, and the tape it holds. -/
theorem State.loadTape_eq_ok_iff (s t : State) (image : List (Nat × Nat)) :
    s.loadTape image = .ok t ↔
      (∀ e ∈ image, Config.validCell s.cfg e = true) ∧ t = { s with tape := Memory.ofPairs 0 image } := by
  unfold State.loadTape
  rw [← List.all_eq_true]
  split
  · next legal => simp only [legal, true_and, Except.ok.injEq, eq_comm]
  · next illegal => simp only [illegal, false_and, reduceCtorEq, Bool.false_eq_true]

/-- A raw buffer is the map of its cells when a cell is a byte, and is refused otherwise. -/
theorem State.loadTapeBytes_of_byte_cells {s : State} (bytes : List Byte) (h : s.cfg.tw = 8) :
    s.loadTapeBytes bytes = s.loadTape (cellsOfBytes bytes) :=
  if_pos h

theorem State.loadTapeBytes_eq_ok {s t : State} {bytes : List Byte} (h : s.loadTapeBytes bytes = .ok t) :
    s.loadTape (cellsOfBytes bytes) = .ok t := by
  by_cases byteCells : s.cfg.tw = 8
  · rwa [State.loadTapeBytes_of_byte_cells bytes byteCells] at h
  · rw [State.loadTapeBytes, if_neg byteCells] at h
    cases h

/-- The cells of a buffer are listed at the addresses 0, 1, … in this order. -/
theorem map_fst_cellsOfBytes (bytes : List Byte) :
    (cellsOfBytes bytes).map (·.1) = List.range bytes.length := by
  rw [List.range_eq_range', ← List.zipIdx_map_snd 0 bytes, cellsOfBytes, List.map_map]
  rfl

/-- Cell `i` of a buffer is its byte `i`, and there is no other. -/
theorem mem_cellsOfBytes_iff (bytes : List Byte) (a v : Nat) :
    (a, v) ∈ cellsOfBytes bytes ↔ ∃ b, bytes[a]? = some b ∧ b.toNat = v := by
  simp only [cellsOfBytes, List.mem_map, Prod.exists, Prod.mk.injEq, List.mk_mem_zipIdx_iff_getElem?]
  constructor
  · rintro ⟨b, i, hb, rfl, rfl⟩
    exact ⟨b, hb, rfl⟩
  · rintro ⟨b, hb, rfl⟩
    exact ⟨b, a, hb, rfl, rfl⟩

/-- The tape a raw buffer leaves reads byte `a` at `a`, and 0 beyond the buffer. -/
theorem Memory.read_cellsOfBytes (bytes : List Byte) (a : Nat) :
    Memory.read (Memory.ofPairs 0 (cellsOfBytes bytes)) 0 a = (bytes.getD a 0).toNat := by
  have keys := map_fst_cellsOfBytes bytes
  rcases Nat.lt_or_ge a bytes.length with inside | beyond
  · have listed := (mem_cellsOfBytes_iff bytes a _).mpr ⟨_, List.getElem?_eq_getElem inside, rfl⟩
    rw [List.getD_eq_getElem bytes 0 inside,
      Memory.read_ofPairs_of_mem 0 (keys ▸ List.nodup_range) listed]
  · have unlisted : a ∉ (cellsOfBytes bytes).map (·.1) := by
      rw [keys, List.mem_range]
      exact Nat.not_lt.mpr beyond
    rw [List.getD_eq_default bytes 0 beyond, Memory.read_ofPairs_of_not_mem 0 unlisted]
    rfl

/-- A buffer no longer than the tape is a legal image when a cell is a byte. -/
theorem Config.validCell_of_mem_cellsOfBytes {c : Config} {bytes : List Byte} (byteCells : c.tw = 8)
    (fits : ∀ n, c.tl = some n → bytes.length ≤ 2 ^ n) {e : Nat × Nat} (h : e ∈ cellsOfBytes bytes) :
    Config.validCell c e = true := by
  obtain ⟨b, hb, hv⟩ := (mem_cellsOfBytes_iff bytes e.1 e.2).mp h
  obtain ⟨inside, -⟩ := List.getElem?_eq_some_iff.mp hb
  refine (Config.validCell_iff c e).mpr ⟨?_, fun n hn => Nat.lt_of_lt_of_le inside (fits n hn)⟩
  rw [byteCells, ← hv]
  exact b.isLt

/-- Settles O44: a legal image becomes the tape, whose reads are those of `Memory.ofPairs`. -/
theorem tapeLoadReadsBack : Obligations.TapeLoadReadsBack := by
  intro s notWaiting
  refine ⟨fun bytes byteCells fits => ?_, fun image distinct inRange => ?_⟩
  · have loaded := (s.loadTape_eq_ok_iff _ (cellsOfBytes bytes)).mpr
      ⟨fun e he => Config.validCell_of_mem_cellsOfBytes byteCells fits he, rfl⟩
    refine ⟨{ s with tape := _ }, ?_, rfl, Memory.read_cellsOfBytes bytes⟩
    rw [serve, State.betweenSteps_of_not_waiting notWaiting,
      State.loadTapeBytes_of_byte_cells bytes byteCells, loaded]
    rfl
  · have loaded := (s.loadTape_eq_ok_iff _ image).mpr
      ⟨fun e he => (Config.validCell_iff s.cfg e).mpr (inRange e.1 e.2 he), rfl⟩
    refine ⟨{ s with tape := _ }, ?_, rfl, fun a v h => Memory.read_ofPairs_of_mem 0 distinct h,
      fun a h => Memory.read_ofPairs_of_not_mem 0 h⟩
    rw [serve, State.betweenSteps_of_not_waiting notWaiting, loaded]
    rfl

/-! ### Who writes a code store (R56) -/

/-- What both code stores hold. -/
def State.codeStores (s : State) : List Host.Cell × List Host.Cell := (s.acode, s.scode)

theorem State.codeStores_eq_iff (s t : State) :
    t.codeStores = s.codeStores ↔ t.acode = s.acode ∧ t.scode = s.scode :=
  Prod.mk_inj

theorem Effect.codeStores_eq {s t : State} {i : Instr} (h : Effect s i t) :
    t.codeStores = s.codeStores := by
  cases h with
  | trap _ _ _ =>
    obtain ⟨-, -, -, -, hacode, hscode, -⟩ := s.trap_keeps (encodeByte i) s.cell
    exact (s.codeStores_eq_iff _).mpr ⟨hacode, hscode⟩
  | _ => rfl

theorem step_codeStores_eq {s t : State} (h : step s = .next t) : t.codeStores = s.codeStores := by
  rcases step_effect h with ⟨-, rfl⟩ | ⟨-, -, effect⟩
  · rfl
  · exact effect.codeStores_eq

theorem State.serveStep_codeStores (s : State) : s.serveStep.1.codeStores = s.codeStores := by
  unfold State.serveStep
  split
  · next t h => exact step_codeStores_eq h
  · rfl
  · rfl

theorem State.serveSupply_codeStores (s : State) (b : Byte) :
    (s.serveSupply b).1.codeStores = s.codeStores := by
  unfold State.serveSupply
  split
  · exact (s.withInput b).serveStep_codeStores
  · rfl

theorem State.returnToApplication_codeStores (s : State) :
    s.returnToApplication.codeStores = s.codeStores := by
  unfold State.returnToApplication
  split <;> rfl

theorem State.writeReg_codeStores (s : State) (r : RegName) (v : Nat) :
    (s.writeReg r v).codeStores = s.codeStores := by
  cases r <;> rfl

/-- The inversion of a register write: a legal value of a named register. -/
theorem State.regSet_eq_ok {s t : State} {name : String} {v : Nat} (h : s.regSet name v = .ok t) :
    ∃ r, RegName.ofString name = some r ∧ s.legalReg r v = true ∧ t = s.writeReg r v := by
  unfold State.regSet at h
  split at h
  · cases h
  · next r named =>
    split at h
    · next legal => exact ⟨r, named, legal, (Except.ok.inj h).symm⟩
    · cases h

theorem State.valueReply_fst (s : State) (e : Except HostError Nat) : (s.valueReply e).1 = s := by
  cases e <;> rfl

/-- A request made between steps keeps the code stores when its own result does. -/
theorem State.betweenSteps_codeStores {s : State} {r : State × Reply}
    (h : r.1.codeStores = s.codeStores) : (s.betweenSteps r).1.codeStores = s.codeStores := by
  rcases s.betweenSteps_fst r with same | own
  · rw [same]
  · rw [own, h]

/-- A request that may fail keeps the code stores when it does so on success. -/
theorem State.orFailed_codeStores {s : State} {e : Except HostError State}
    (h : ∀ t, e = .ok t → t.codeStores = s.codeStores) : (s.orFailed e).1.codeStores = s.codeStores := by
  rcases s.orFailed_fst e with same | ok
  · rw [same]
  · exact h _ ok

theorem State.loadTape_codeStores {s t : State} {image : List (Nat × Nat)} (h : s.loadTape image = .ok t) :
    t.codeStores = s.codeStores := by
  obtain ⟨-, rfl⟩ := (s.loadTape_eq_ok_iff t image).mp h
  rfl

/-- Every request but a code load keeps both code stores. -/
theorem serve_codeStores {q : Request} (s : State) (h : ∀ space image, q ≠ .loadCode space image) :
    (serve q s).1.codeStores = s.codeStores := by
  cases q with
  | reset => exact State.betweenSteps_codeStores rfl
  | loadCode space image => exact absurd rfl (h space image)
  | loadTape image =>
    exact State.betweenSteps_codeStores (State.orFailed_codeStores fun _ => State.loadTape_codeStores)
  | loadTapeBytes bytes =>
    exact State.betweenSteps_codeStores (State.orFailed_codeStores fun _ ok =>
      State.loadTape_codeStores (State.loadTapeBytes_eq_ok ok))
  | step => exact State.betweenSteps_codeStores s.serveStep_codeStores
  | supply b => exact s.serveSupply_codeStores b
  | takeOutput => rfl
  | ret => exact State.betweenSteps_codeStores s.returnToApplication_codeStores
  | regGet name => exact State.betweenSteps_codeStores (by rw [s.valueReply_fst])
  | regSet name v =>
    refine State.betweenSteps_codeStores (State.orFailed_codeStores fun t ok => ?_)
    obtain ⟨r, -, -, rfl⟩ := State.regSet_eq_ok ok
    exact s.writeReg_codeStores r v

/-- Settles O45: of the requests, only a code load writes a code store. -/
theorem onlyLoadsWriteCode : Obligations.OnlyLoadsWriteCode :=
  fun _ s h => (s.codeStores_eq_iff _).mp (serve_codeStores s h)

end Sys2Proof.Machine
end

section
/-! Proofs about the step engine of spec/40_step_engine.md: what a step runs (R101 to R103), what skip mode leaves
of an instruction (R105), and the pair a step returns (R108). -/

namespace Sys2Proof.Machine

/-! ### What a step runs -/

/-- Settles O9: in each of the two modes a guarded step is `exec` of the byte at `pc`; without a mode the
fetch stage stops. -/
theorem stepRunsDecodedInstruction : Obligations.StepRunsDecodedInstruction := by
  intro s
  refine ⟨fun hm hi => step_eq_exec s .application .acode hm rfl hi,
    fun hm hi => step_eq_exec s .supervisor .scode hm rfl hi, fun big => ?_⟩
  have noMode : s.mode = none := s.mode_eq_none.mpr big
  rw [step, State.fetchStage, noMode]

/-- Settles O10: the fetch stage of a halted state goes to the halted step, which writes the answer alone. -/
theorem haltedStepTouchesNothing : Obligations.HaltedStepTouchesNothing := by
  intro s halt
  rw [step, State.fetchStage, halt]
  rfl

/-! ### The mode field as a number (R26, R29, R30) -/

/-- Writing the mode field as a number: the low 16 bits kept, the ordinal above them. -/
theorem withMode_eq_srWithMode (v : BitVec 24) (m : Mode) :
    withMode v m = Spec.srWithMode v m.ordinal.toNat := by
  have low : srCell v ++ srOp v = v.extractLsb' 0 16 :=
    BitVec.extractLsb'_append_extractLsb'_eq_extractLsb' rfl
  have fields : withMode v m = m.ordinal ++ v.extractLsb' 0 16 := by
    rw [← low]
    exact BitVec.append_assoc
  have fits : v.toNat % 2 ^ 16 < 2 ^ 16 := Nat.mod_lt _ (by decide)
  apply BitVec.eq_of_toNat_eq
  rw [fields, Spec.srWithMode, BitVec.toNat_append, BitVec.extractLsb'_toNat, Nat.shiftRight_zero,
    ← Nat.shiftLeft_add_eq_or_of_lt fits, Nat.shiftLeft_eq, BitVec.toNat_ofNat]
  omega

/-- What NUL and a double fault leave in `sr`, as the rules write it (R190, R202). -/
theorem State.setMode_halt_eq_halted (s : State) : s.setMode .halt = Spec.halted s := by
  rw [State.setMode, withMode_eq_srWithMode]
  rfl

/-! ### Skip mode -/

theorem exec_of_skipping {s : State} {i : Instr} (sk : 0 < s.sk) (ho : i ≠ .loopOpen)
    (hc : i ≠ .loopClose) (hn : i ≠ .nul) : exec i s = .next (s.onward 1) := by
  cases i with
  | nul => exact absurd rfl hn
  | loopOpen => exact absurd rfl ho
  | loopClose => exact absurd rfl hc
  | _ => exact s.unlessSkipping_pos _ sk

theorem exec_loopOpen_of_skipping {s : State} (sk : 0 < s.sk) :
    exec .loopOpen s = .next ((s.setSk (s.sk + 1)).onward 1) :=
  if_pos (s.skipping_iff.mpr sk)

/-- Skip end and a closed nested bracket end in different result classes and in the same state. -/
theorem exec_loopClose_of_skipping {s : State} (sk : 0 < s.sk) :
    exec .loopClose s = .next ((s.setSk (s.sk - 1)).onward 1) := by
  rw [exec, execLoopClose, if_pos (s.skipping_iff.mpr sk)]
  split
  · exact State.complete_regular _
  · exact State.complete_skip _

/-- Settles O14: one equation per kind of instruction; NUL's does not depend on `sk`. -/
theorem skipOnlyMovesPc : Obligations.SkipOnlyMovesPc := by
  intro i s sk
  refine ⟨exec_of_skipping sk, ?_, ?_, ?_⟩
  · rintro rfl
    exact exec_loopOpen_of_skipping sk
  · rintro rfl
    exact exec_loopClose_of_skipping sk
  · rintro rfl
    rw [exec, execNul, State.complete_halt, State.setMode_halt_eq_halted]
    rfl

/-! ### The pair a step returns -/

/-- Encoding undoes decoding on every byte (R81, R82). -/
theorem encodeByte_decodeByte (b : Byte) : encodeByte (decodeByte b) = b := by
  unfold decodeByte
  repeat' split
  all_goals simp only [encodeByte, *]

/-- A comment carries the byte it was decoded from (R82). -/
theorem eq_of_decodeByte_eq_comment {b c : Byte} (h : decodeByte b = .comment c) : c = b := by
  rw [← encodeByte_decodeByte b, h, encodeByte]

/-- A comment that is not skipped takes a step and no cycle (R108, R191). -/
theorem Effect.answer_of_comment {s t : State} {b : Byte} (h : Effect s (.comment b) t)
    (sk : s.sk = 0) : t.answer = .pair 1 0 := by
  cases h with
  | skip _ pos => exact absurd sk (Nat.ne_of_gt pos)
  | trap _ _ never => exact never.elim
  | comment => rfl

/-- Every other instruction that completes takes a step and a cycle, whatever its result class (R108). -/
theorem Effect.answer_of_not_comment {s t : State} {i : Instr} (h : Effect s i t)
    (done : t.answer ≠ .waiting) (other : s.sk = 0 → ∀ b, i ≠ .comment b) : t.answer = .pair 1 1 := by
  cases h with
  | inputWait => exact absurd rfl done
  | comment b sk => exact absurd rfl (other sk b)
  | _ => rfl

/-- Settles O16: by the cases of a step, the fetched comment being the one of the fetched byte. -/
theorem cyclesOfAStep : Obligations.CyclesOfAStep := by
  intro s t h done
  rcases step_effect h with ⟨halt, rfl⟩ | ⟨mode, -, effect⟩
  · rw [if_pos halt]
    rfl
  · have notHalted : s.mode ≠ some .halt := by rcases mode with m | m <;> simp [m]
    rw [if_neg notHalted]
    split
    · next comment =>
      obtain ⟨sk, fetched⟩ := comment
      exact (fetched ▸ effect).answer_of_comment sk
    · next other =>
      refine effect.answer_of_not_comment done fun sk b fetched => other ⟨sk, ?_⟩
      rw [fetched, eq_of_decodeByte_eq_comment fetched]

end Sys2Proof.Machine
end

section
/-! Proofs about the tape-pointer instructions of spec/41_tape_pointer.md, with what the traps of every
instruction share: the state a trap leaves (R201, R202) and the instructions that raise one (R200). -/

namespace Sys2Proof.Machine

/-! ### The state a trap leaves -/

/-- The status register of trap entry as the rules write it (R26, R201). -/
theorem packSr_trunc8_eq_srNumber (op : Byte) (c : Nat) (m : Mode) :
    packSr op (trunc8 c) m = Spec.srNumber op.toNat c m.ordinal.toNat := by
  have cell : (trunc8 c).toNat = c % 256 := BitVec.toNat_ofNat c 8
  rw [Spec.srNumber, ← cell, ← toNat_packSr, BitVec.ofNat_toNat, BitVec.setWidth_eq]

theorem State.trap_eq_trapEntered {s : State} (op : Byte) (c : Nat) (app : s.mode = some .application) :
    s.trap op c = Spec.trapEntered op.toNat c s := by
  rw [s.trap_of_application op c app, packSr_trunc8_eq_srNumber]
  rfl

theorem State.trap_eq_halted {s : State} (op : Byte) (c : Nat) (other : s.mode ≠ some .application) :
    s.trap op c = Spec.halted s := by
  rw [s.trap_of_other op c other, s.setMode_halt_eq_halted]

/-- A violation in Application ends in trap entry with the instruction's byte and the cell (R200, R201). -/
theorem State.violate_of_application {s : State} (i : Instr) (app : s.mode = some .application) :
    s.violate i = .next (Spec.stayed (Spec.trapEntered (encodeByte i).toNat (s.tapeAt s.tp) s)) := by
  rw [State.violate, State.trap_eq_trapEntered _ _ app, State.complete_violation]
  rfl

/-- A violation in any other mode is a double fault (R202). -/
theorem State.violate_of_other {s : State} (i : Instr) (other : s.mode ≠ some .application) :
    s.violate i = .next (Spec.stayed (Spec.halted s)) := by
  rw [State.violate, State.trap_eq_halted _ _ other, State.complete_violation]
  rfl

theorem State.violate_of_supervisor {s : State} (i : Instr) (sup : s.mode = some .supervisor) :
    s.violate i = .next (Spec.stayed (Spec.halted s)) :=
  State.violate_of_other i (by simp [sup])

/-! ### Which instructions trap -/

/-- Outside skip mode an instruction whose trap condition holds is a violation and nothing else (R200). -/
theorem exec_of_trapsOn {s : State} {i : Instr} (sk : s.sk = 0) (h : s.trapsOn i) :
    exec i s = s.violate i := by
  have notSkipping : ¬ s.skipping = true := by simp [s.skipping_iff, sk]
  cases i with
  | right => rw [exec, execRight, s.unlessSkipping_zero _ sk, if_pos (s.atTapeTop_iff.mpr h)]
  | left => rw [exec, execLeft, s.unlessSkipping_zero _ sk, if_pos (s.atTapeBottom_iff.mpr h)]
  | loopOpen =>
    obtain ⟨nonzero, full⟩ := h
    rw [exec, execLoopOpen, if_neg notSkipping, if_neg (mt s.cellIsZero_iff.mp nonzero),
      if_pos (s.stackFull_iff.mpr full)]
  | loopClose => rw [exec, execLoopClose, if_neg notSkipping, if_pos (s.stackEmpty_iff.mpr h)]
  | _ => exact h.elim

/-- `>` traps at the last cell of a finite tape (R6, R130). -/
theorem State.trapsOn_right_iff (s : State) :
    s.trapsOn .right ↔ ∃ e, s.cfg.tl = some e ∧ s.tp + 1 = 2 ^ e := by
  unfold State.trapsOn Config.tapeLength
  cases s.cfg.tl <;> simp [eq_comm]

/-! ### `>` and `<` -/

theorem exec_right_of_not_trapsOn {s : State} (sk : s.sk = 0) (h : ¬ s.trapsOn .right) :
    exec .right s = .next ((s.setTp (s.tp + 1)).onward 1) := by
  rw [exec, execRight, s.unlessSkipping_zero _ sk, if_neg (mt s.atTapeTop_iff.mp h),
    State.complete_regular]

theorem exec_left_of_not_trapsOn {s : State} (sk : s.sk = 0) (h : ¬ s.trapsOn .left) :
    exec .left s = .next ((s.setTp (s.tp - 1)).onward 1) := by
  rw [exec, execLeft, s.unlessSkipping_zero _ sk, if_neg (mt s.atTapeBottom_iff.mp h),
    State.complete_regular]

/-- Settles O20: below the top `>` moves `tp` on; at the top it is a violation, whose end the mode decides. -/
theorem rightMovesOrTraps : Obligations.RightMovesOrTraps := by
  intro s sk
  have atTop : ∀ e, s.cfg.tl = some e → s.tp + 1 = 2 ^ e → exec .right s = s.violate .right :=
    fun e tl top => exec_of_trapsOn sk (s.trapsOn_right_iff.mpr ⟨e, tl, top⟩)
  refine ⟨fun below => ?_, fun e tl top app => ?_, fun e tl top sup => ?_⟩
  · refine exec_right_of_not_trapsOn sk fun trap => ?_
    obtain ⟨e, tl, top⟩ := s.trapsOn_right_iff.mp trap
    exact below e tl top
  · exact (atTop e tl top).trans (State.violate_of_application .right app)
  · exact (atTop e tl top).trans (State.violate_of_supervisor .right sup)

/-- Settles O21: above 0 `<` moves `tp` back; at 0 it is a violation, whose end the mode decides. -/
theorem leftMovesOrTraps : Obligations.LeftMovesOrTraps := by
  intro s sk
  have atBottom : s.tp = 0 → exec .left s = s.violate .left :=
    exec_of_trapsOn (i := .left) sk
  exact ⟨exec_left_of_not_trapsOn sk,
    fun bottom app => (atBottom bottom).trans (State.violate_of_application .left app),
    fun bottom sup => (atBottom bottom).trans (State.violate_of_supervisor .left sup)⟩

end Sys2Proof.Machine
end

section
/-! Proofs about the cell arithmetic of spec/42_cell_arithmetic.md: `+` and `-` store one computed value in the
cell at `tp` (R140, R141), so both rest on one frame rule for such a store. -/

namespace Sys2Proof.Machine

/-! ### A step that stores to the current cell -/

theorem State.writeCell_tapeAt_tp (s : State) (v : Nat) : (s.writeCell v).tapeAt s.tp = v := by
  rw [s.writeCell_tapeAt, if_pos rfl]

theorem State.writeCell_tapeAt_of_ne {s : State} {a : Nat} (v : Nat) (other : a ≠ s.tp) :
    (s.writeCell v).tapeAt a = s.tapeAt a := by
  rw [s.writeCell_tapeAt, if_neg other]

/-- The frame of a step that stores `v` at `tp` (R53, R107): beside `pc` and the answer it changes the tape
alone, and of the tape the cell at `tp` alone. -/
theorem State.writeCell_onward_frame (s : State) (v cycles : Nat) :
    let t := (s.writeCell v).onward cycles
    t = Spec.advanced cycles { s with tape := t.tape } ∧ t.tapeAt s.tp = v ∧
      ∀ a, a ≠ s.tp → t.tapeAt a = s.tapeAt a :=
  ⟨rfl, s.writeCell_tapeAt_tp v, fun _ => State.writeCell_tapeAt_of_ne v⟩

/-! ### `+` and `-` -/

theorem exec_inc_of_not_skipping {s : State} (sk : s.sk = 0) :
    exec .inc s = .next ((s.writeCell s.cellPlusOne).onward 1) := by
  rw [exec, execInc, s.unlessSkipping_zero _ sk, State.complete_regular]

theorem exec_dec_of_not_skipping {s : State} (sk : s.sk = 0) :
    exec .dec s = .next ((s.writeCell s.cellMinusOne).onward 1) := by
  rw [exec, execDec, s.unlessSkipping_zero _ sk, State.complete_regular]

/-- Settles O22: `+` stores `cellPlusOne`, the sum modulo `2^tw` by definition, and the frame rule says the
rest. -/
theorem incrementWraps : Obligations.IncrementWraps :=
  fun s sk => ⟨_, exec_inc_of_not_skipping sk, s.writeCell_onward_frame s.cellPlusOne 1⟩

/-- Settles O23: `-` stores `cellMinusOne`, where adding `2^tw` first keeps the difference a natural number,
and the frame rule says the rest. -/
theorem decrementWraps : Obligations.DecrementWraps :=
  fun s sk => ⟨_, exec_dec_of_not_skipping sk, s.writeCell_onward_frame s.cellMinusOne 1⟩

end Sys2Proof.Machine
end

section
/-! Proofs about the loop control of spec/43_loop_control.md: one equation for each case of `[` (R150) and of
`]` (R151). Their equations in skip mode and for their traps stand with the step engine and with the traps. -/

namespace Sys2Proof.Machine

theorem State.not_skipping_of_sk_eq_zero {s : State} (sk : s.sk = 0) : ¬ s.skipping = true := by
  simp [s.skipping_iff, sk]

/-! ### `[` outside skip mode -/

/-- Skip begin: the cell is tested before the stack, so a full stack does not matter (R150). -/
theorem exec_loopOpen_of_cell_zero {s : State} (sk : s.sk = 0) (zero : s.cell = 0) :
    exec .loopOpen s = .next ((s.setSk 1).onward 1) := by
  rw [exec, execLoopOpen, if_neg (State.not_skipping_of_sk_eq_zero sk), if_pos (s.cellIsZero_iff.mpr zero),
    State.complete_skip]

/-- Loop entry (R150). -/
theorem exec_loopOpen_of_room {s : State} (sk : s.sk = 0) (nonzero : s.cell ≠ 0)
    (room : s.sp ≠ s.cfg.sd) : exec .loopOpen s = .next (s.pushPc.onward 1) := by
  rw [exec, execLoopOpen, if_neg (State.not_skipping_of_sk_eq_zero sk),
    if_neg (mt s.cellIsZero_iff.mp nonzero), if_neg (mt s.stackFull_iff.mp room), State.complete_regular]

/-- Settles O24: one equation per case; a full stack is a violation, whose end the mode decides. -/
theorem loopOpenCases : Obligations.LoopOpenCases := by
  intro s
  have full (sk : s.sk = 0) (nonzero : s.cell ≠ 0) (sd : s.sp = s.cfg.sd) :
      exec .loopOpen s = s.violate .loopOpen :=
    exec_of_trapsOn (i := .loopOpen) sk ⟨nonzero, sd⟩
  exact ⟨exec_loopOpen_of_skipping, exec_loopOpen_of_cell_zero,
    fun sk nonzero sd app => (full sk nonzero sd).trans (State.violate_of_application .loopOpen app),
    fun sk nonzero sd sup => (full sk nonzero sd).trans (State.violate_of_supervisor .loopOpen sup),
    exec_loopOpen_of_room⟩

/-! ### `]` outside skip mode -/

/-- Loop exit, which pops too (R151). -/
theorem exec_loopClose_of_cell_zero {s : State} (sk : s.sk = 0) (nonempty : s.sp ≠ 0) (zero : s.cell = 0) :
    exec .loopClose s = .next (s.popEntry.onward 1) := by
  rw [exec, execLoopClose, if_neg (State.not_skipping_of_sk_eq_zero sk),
    if_neg (mt s.stackEmpty_iff.mp nonempty), if_pos (s.cellIsZero_iff.mpr zero), State.complete_regular]

/-- Loop back: `pc` is the popped entry and does not move on (R151). -/
theorem exec_loopClose_of_cell_ne_zero {s : State} (sk : s.sk = 0) (nonempty : s.sp ≠ 0)
    (nonzero : s.cell ≠ 0) : exec .loopClose s = .next (s.popEntry.setPc s.stackTop).inPlace := by
  rw [exec, execLoopClose, if_neg (State.not_skipping_of_sk_eq_zero sk),
    if_neg (mt s.stackEmpty_iff.mp nonempty), if_neg (mt s.cellIsZero_iff.mp nonzero),
    State.complete_controlFlow]

/-- The popped entry is the one at `sp - 1` where the stack has one. -/
theorem State.stackTop_of_getElem? {s : State} {a : Nat} (entry : s.stack[s.sp - 1]? = some a) :
    s.stackTop = a := by
  rw [State.stackTop, List.getD_eq_getElem?_getD, entry, Option.getD_some]

/-- Settles O25: one equation per case; an empty stack is a violation, whose end the mode decides. -/
theorem loopCloseCases : Obligations.LoopCloseCases := by
  intro s
  have empty (sk : s.sk = 0) (sp : s.sp = 0) : exec .loopClose s = s.violate .loopClose :=
    exec_of_trapsOn (i := .loopClose) sk sp
  refine ⟨exec_loopClose_of_skipping,
    fun sk sp app => (empty sk sp).trans (State.violate_of_application .loopClose app),
    fun sk sp sup => (empty sk sp).trans (State.violate_of_supervisor .loopClose sup),
    fun a sk pos nonzero entry => ?_,
    fun sk pos => exec_loopClose_of_cell_zero sk (Nat.ne_of_gt pos)⟩
  have back := exec_loopClose_of_cell_ne_zero sk (Nat.ne_of_gt pos) nonzero
  rw [State.stackTop_of_getElem? entry] at back
  exact back

end Sys2Proof.Machine
end

section
/-! Proofs about the I/O instructions of spec/44_io.md: what `.` sends (R180), and what `,` does with a supplied
byte (R181), resting on one frame rule for both settings of `INPUT_WRITEBACK`. -/

namespace Sys2Proof.Machine

/-! ### `.` -/

/-- The byte `.` sends, as R180 writes it: the truncation takes the cell modulo 256. -/
theorem State.cellByte_eq_ofNat_mod (s : State) : s.cellByte = BitVec.ofNat 8 (s.tapeAt s.tp % 256) := by
  apply BitVec.eq_of_toNat_eq
  rw [State.cellByte, State.cell, trunc8, BitVec.toNat_ofNat, BitVec.toNat_ofNat]
  exact (Nat.mod_mod _ 256).symm

theorem exec_output_of_not_skipping {s : State} (sk : s.sk = 0) :
    exec .output s = .next ((s.sendByte s.cellByte).onward 1) := by
  rw [exec, execOutput, s.unlessSkipping_zero _ sk, State.complete_regular]

/-- Settles O26: `.` sends `cellByte`, which is the cell modulo 256, and moves on. -/
theorem outputSendsLowByte : Obligations.OutputSendsLowByte := by
  intro s sk
  rw [exec_output_of_not_skipping sk, s.cellByte_eq_ofNat_mod]
  rfl

/-! ### `,` with a byte supplied -/

theorem State.storeInput_of_writeback {s : State} (b : Byte) (on : s.cfg.inputWriteback = true) :
    s.storeInput b = s.writeCell b.toNat := if_pos on

theorem State.storeInput_of_discard {s : State} (b : Byte) (off : s.cfg.inputWriteback = false) :
    s.storeInput b = s := if_neg (by simp [off])

/-- The frame of a step that has read `b` (R12, R107, R181): beside `pc` and the answer it changes the tape
alone, and of the tape the cell at `tp` alone, and that only with write-back. -/
theorem State.storeInput_onward_frame (s : State) (b : Byte) (cycles : Nat) :
    let t := (s.storeInput b).onward cycles
    t = Spec.advanced cycles { s with tape := t.tape } ∧
      (s.cfg.inputWriteback = true →
        t.tapeAt s.tp = b.toNat ∧ ∀ a, a ≠ s.tp → t.tapeAt a = s.tapeAt a) ∧
      (s.cfg.inputWriteback = false → t.tape = s.tape) := by
  cases setting : s.cfg.inputWriteback with
  | true =>
    rw [State.storeInput_of_writeback b setting]
    obtain ⟨frame, cells⟩ := s.writeCell_onward_frame b.toNat cycles
    exact ⟨frame, fun _ => cells, nofun⟩
  | false =>
    rw [State.storeInput_of_discard b setting]
    exact ⟨rfl, nofun, fun _ => rfl⟩

theorem exec_input_of_supplied {s : State} {b : Byte} {rest : List Byte} (sk : s.sk = 0)
    (supplied : s.input = b :: rest) :
    exec .input s = .next (((s.takeInput rest).storeInput b).onward 1) := by
  rw [exec, execInput, s.unlessSkipping_zero _ sk, supplied]
  exact State.complete_regular _

/-- Settles O27: the byte is taken first, and the frame rule holds of the state it is taken from. -/
theorem inputReadsAByte : Obligations.InputReadsAByte :=
  fun s b rest sk supplied =>
    ⟨_, exec_input_of_supplied sk supplied, (s.takeInput rest).storeInput_onward_frame b 1⟩

end Sys2Proof.Machine
end

section
/-! Proofs about the halt and the comment bytes of spec/45_halt_and_comment.md: the state NUL leaves and the halted
step after it (R190, R101), and a comment outside skip mode (R191). -/

namespace Sys2Proof.Machine

/-! ### NUL -/

/-- NUL takes no skip test, so one equation holds at every skip depth and in every mode (R104, R190). -/
theorem exec_nul (s : State) : exec .nul s = .next (Spec.stayed (Spec.halted s)) := by
  rw [exec, execNul, State.complete_halt, s.setMode_halt_eq_halted]
  rfl

/-- The pair a halting step has returned is overwritten by the halted step's (R101). -/
theorem step_stayed_of_halt {s : State} (halt : s.mode = some .halt) :
    step (Spec.stayed s) = .next { s with answer := .pair 0 1 } :=
  haltedStepTouchesNothing (Spec.stayed s) halt

/-- Settles O28: the halted state is `setMode` to Halt, so the rules of `setMode` give its fields and the next
step is a halted one. -/
theorem nulHalts : Obligations.NulHalts := by
  intro s
  have halt : (Spec.halted s).mode = some .halt := by
    rw [← s.setMode_halt_eq_halted, State.setMode_mode]
  have op : srOp (Spec.halted s).sr = srOp s.sr := by
    rw [← s.setMode_halt_eq_halted, State.setMode_sr, srOp_withMode]
  have cell : srCell (Spec.halted s).sr = srCell s.sr := by
    rw [← s.setMode_halt_eq_halted, State.setMode_sr, srCell_withMode]
  exact ⟨exec_nul s, halt, op, cell, step_stayed_of_halt halt⟩

/-! ### A comment byte -/

theorem exec_comment_of_not_skipping {s : State} (b : Byte) (sk : s.sk = 0) :
    exec (.comment b) s = .next (s.onward 0) := by
  rw [exec, execComment, s.unlessSkipping_zero _ sk, State.complete_nop]

/-- Settles O29: outside skip mode a comment is a Nop; in it, a Skip like every instruction but `[`, `]` and
NUL. -/
theorem commentIsNop : Obligations.CommentIsNop :=
  fun b _ => ⟨exec_comment_of_not_skipping b, fun sk => exec_of_skipping sk nofun nofun nofun⟩

end Sys2Proof.Machine
end

section
/-! Proofs about the exceptions and the host's side of spec/60_exceptions.md: trap entry (R201), double fault
(R202) and the causes of both (R200), the return (R207, R208), the internal errors (R213), construction (R214)
and register writes (R216, R217). -/

namespace Sys2Proof.Machine

/-! ### Trap entry and double fault (R201, R202) -/

theorem State.trap_sr_of_application {s : State} (op : Byte) (c : Nat)
    (app : s.mode = some .application) :
    (s.trap op c).sr = packSr op (trunc8 c) .supervisor := by
  rw [s.trap_of_application op c app]

/-- Settles O30: the trap's state and step are those of the trap rules, the fields those of the packing. -/
theorem trapEntryFromApplication : Obligations.TrapEntryFromApplication := by
  intro s op c app
  have packed := State.trap_sr_of_application op c app
  refine ⟨State.trap_eq_trapEntered op c app, ?_, ?_, ?_, fun i => State.violate_of_application i app⟩
  · rw [s.trap_mode, if_pos app]
  · rw [packed, srOp_packSr]
  · rw [packed, srCell_packSr, trunc8]

/-- Settles O31: outside Application a trap is `setMode` to Halt, which keeps the other two fields. -/
theorem trapElsewhereIsDoubleFault : Obligations.TrapElsewhereIsDoubleFault := by
  intro s op c other
  refine ⟨State.trap_eq_halted op c other, ?_, ?_, ?_, fun i => State.violate_of_other i other⟩
  · rw [s.trap_mode, if_neg other]
  · rw [s.trap_of_other op c other, State.setMode_sr, srOp_withMode]
  · rw [s.trap_of_other op c other, State.setMode_sr, srCell_withMode]

/-! ### The trap causes (R200) -/

/-- The table of causes is the trap condition of the fetched instruction, outside skip mode. -/
theorem State.trapCause_iff (s : State) : s.TrapCause ↔ s.sk = 0 ∧ s.trapsOn s.fetched := by
  unfold State.TrapCause
  rw [← s.trapsOn_right_iff]
  cases s.fetched <;> simp [State.trapsOn]

/-- A step of a running machine that has a next state is the fetched instruction's meaning (R104). -/
theorem exec_fetched_of_step {s t : State}
    (running : s.mode = some .application ∨ s.mode = some .supervisor) (h : step s = .next t) :
    exec s.fetched s = .next t := by
  rcases step_effect h with ⟨halt, -⟩ | ⟨-, guard, -⟩
  · simp [halt] at running
  · rwa [step_eq_exec_fetched s running guard] at h

/-- A step on a trap cause leaves what the trap of the fetched instruction leaves (R106, R200). -/
theorem eq_trap_of_trapCause {s t : State}
    (running : s.mode = some .application ∨ s.mode = some .supervisor) (cause : s.TrapCause)
    (h : step s = .next t) : t = (s.trap (encodeByte s.fetched) s.cell).inPlace := by
  obtain ⟨sk, traps⟩ := s.trapCause_iff.mp cause
  have executed := exec_fetched_of_step running h
  rw [exec_of_trapsOn sk traps, State.violate, State.complete_violation] at executed
  exact (Host.Outcome.next.inj executed).symm

/-- A step on NUL halts, in either running mode (R190). -/
theorem mode_eq_halt_of_nul {s t : State}
    (running : s.mode = some .application ∨ s.mode = some .supervisor) (nul : s.fetched = .nul)
    (h : step s = .next t) : t.mode = some .halt := by
  have executed := exec_fetched_of_step running h
  rw [nul, exec, execNul, State.complete_halt, Host.Outcome.next.injEq] at executed
  rw [← executed, State.inPlace_mode, State.setMode_mode]

/-- What an instruction does to the mode: it keeps it, or is NUL and halts, or traps (R200, R211). -/
theorem Effect.mode_cases {s t : State} {i : Instr} (h : Effect s i t) :
    t.mode = s.mode ∨ (i = .nul ∧ t.mode = some .halt) ∨ (s.sk = 0 ∧ s.trapsOn i) := by
  cases h with
  | nul => exact .inr (.inl ⟨rfl, s.setMode_mode .halt⟩)
  | trap _ sk traps => exact .inr (.inr ⟨sk, traps⟩)
  | _ => exact .inl rfl

/-- A step keeps the mode, or halts on NUL, or traps (R200, R211). -/
theorem step_mode_cases {s t : State} (h : step s = .next t) :
    t.mode = s.mode ∨ (s.fetched = .nul ∧ t.mode = some .halt) ∨ s.TrapCause := by
  rcases step_effect h with ⟨-, rfl⟩ | ⟨-, -, effect⟩
  · exact .inl rfl
  · rw [s.trapCause_iff]
    exact effect.mode_cases

/-- Settles O32: a step on a cause leaves the trap's state, and a step on none keeps the mode but for NUL. -/
theorem trapCausesExactly : Obligations.TrapCausesExactly := by
  refine ⟨fun s t app h => ⟨fun entered => ?_, fun cause => ?_⟩, fun s t app h cause => ?_,
    fun s t sup h => ⟨fun halted => ?_, ?_⟩⟩
  · rcases step_mode_cases h with kept | ⟨-, halt⟩ | cause
    · simp [kept, app] at entered
    · simp [halt] at entered
    · exact cause
  · rw [eq_trap_of_trapCause (.inl app) cause h, State.inPlace_mode, s.trap_mode, if_pos app]
  · have packed := State.trap_sr_of_application (encodeByte s.fetched) s.cell app
    rw [eq_trap_of_trapCause (.inl app) cause h, State.inPlace_sr, State.inPlace_inactivePc, packed,
      srOp_packSr, srCell_packSr, State.fetched, encodeByte_decodeByte, s.trap_of_application _ _ app]
    exact ⟨rfl, s.cellByte_eq_ofNat_mod, rfl⟩
  · rcases step_mode_cases h with kept | ⟨nul, -⟩ | cause
    · simp [kept, sup] at halted
    · exact .inr nul
    · exact .inl cause
  · rintro (cause | nul)
    · rw [eq_trap_of_trapCause (.inr sup) cause h, State.inPlace_mode, s.trap_mode, if_neg (by simp [sup])]
    · exact mode_eq_halt_of_nul (.inr sup) nul h

/-! ### The return (R207, R208) -/

theorem State.returnToApplication_of_supervisor {s : State} (sup : s.mode = some .supervisor) :
    s.returnToApplication =
      { s with
        pc := s.inactivePc, sp := s.inactiveSp, sk := s.inactiveSk, inactivePc := 0, inactiveSp := 0,
        inactiveSk := 0, sr := withMode s.sr .application } :=
  if_pos sup

theorem State.returnToApplication_of_other {s : State} (other : s.mode ≠ some .supervisor) :
    s.returnToApplication = s :=
  if_neg other

theorem serve_ret_of_not_waiting {s : State} (notWaiting : s.answer ≠ .waiting) :
    serve .ret s = (s.returnToApplication, .done) :=
  State.betweenSteps_of_not_waiting notWaiting _

/-- Settles O35: between steps the request is the return itself, whose `sr` is `withMode` as a number. -/
theorem returnRestoresShadows : Obligations.ReturnRestoresShadows := by
  intro s notWaiting
  rw [serve_ret_of_not_waiting notWaiting]
  refine ⟨fun sup => ?_, fun other => by rw [State.returnToApplication_of_other other]⟩
  rw [State.returnToApplication_of_supervisor sup]
  constructor
  · rw [withMode_eq_srWithMode]
    rfl
  · rw [State.mode_eq_some, srMode_withMode]

/-! ### The internal errors (R213) -/

/-- No instruction's meaning faults, so a step has a next state or stops in its fetch stage. -/
theorem step_outcome (s : State) :
    (∃ t, step s = .next t) ∨ ∃ f, s.fetchStage = .stopped f ∧ step s = .fault f := by
  unfold step
  cases s.fetchStage with
  | halted => exact .inl ⟨_, rfl⟩
  | stopped f => exact .inr ⟨f, rfl, rfl⟩
  | instr i =>
    obtain ⟨t, next, -⟩ := exec_effect i s
    exact .inl ⟨t, next⟩

theorem step_eq_fault_iff (s : State) (f : Fault) : step s = .fault f ↔ s.fetchStage = .stopped f := by
  refine ⟨fun fault => ?_, fun stopped => by rw [step, stopped]⟩
  rcases step_outcome s with ⟨t, next⟩ | ⟨g, stopped, fault'⟩
  · cases next.symm.trans fault
  · cases fault'.symm.trans fault
    exact stopped

theorem step_ne_refused (s : State) (r : Refusal) : step s ≠ .refused r := by
  intro refused
  rcases step_outcome s with ⟨t, next⟩ | ⟨g, -, fault⟩
  · cases next.symm.trans refused
  · cases fault.symm.trans refused

/-- Past the choice of the store, the guard alone stops the fetch stage (R109). -/
theorem State.fetchFrom_eq_stopped_iff (s : State) (space : CodeSpace) (f : Fault) :
    s.fetchFrom space = .stopped f ↔ f = .invariantViolated ∧ s.invariantsHold = false := by
  unfold State.fetchFrom
  split
  · next holds => simp [holds]
  · next broken =>
    rw [Fetched.stopped.injEq, and_iff_left (Bool.eq_false_of_not_eq_true broken), eq_comm]

/-- The fetch stage stops on a mode that is none, and at the guard in a mode that fetches (R102, R109). -/
theorem State.fetchStage_eq_stopped_iff (s : State) (f : Fault) :
    s.fetchStage = .stopped f ↔
      (f = .unsupportedMode ∧ s.mode = none) ∨
      (f = .invariantViolated ∧ (s.mode = some .application ∨ s.mode = some .supervisor) ∧
        s.invariantsHold = false) := by
  unfold State.fetchStage
  cases s.mode with
  | none => simpa using eq_comm
  | some m => cases m <;> simp [State.fetchFrom_eq_stopped_iff]

theorem State.mode_eq_none_iff_ne (s : State) :
    s.mode = none ↔
      s.mode ≠ some .application ∧ s.mode ≠ some .supervisor ∧ s.mode ≠ some .halt := by
  cases s.mode with
  | none => simp
  | some m => cases m <;> simp

/-- The host sees the error of a step that faults, and the state stays (R213). -/
theorem serve_step_of_fault {s : State} {f : Fault} (notWaiting : s.answer ≠ .waiting)
    (fault : step s = .fault f) : serve .step s = (s, .internalError f) := by
  rw [serve, State.betweenSteps_of_not_waiting notWaiting, State.serveStep, fault]

/-- Settles O11: a step faults where its fetch stage stops, which is said once for both errors. -/
theorem internalErrorsChangeNothing : Obligations.InternalErrorsChangeNothing := by
  refine ⟨fun s => ?_, fun s => ?_, fun s f notWaiting fault => ?_, step_ne_refused⟩
  · simp [step_eq_fault_iff, s.fetchStage_eq_stopped_iff, ← s.mode_eq_none_iff_ne]
  · simp [step_eq_fault_iff, s.fetchStage_eq_stopped_iff]
  · have served := serve_step_of_fault notWaiting fault
    exact ⟨served, by rw [served, served]⟩

/-! ### Construction and the configuration (R4, R214) -/

/-- A legal configuration as R5 and R7 to R10 write it. -/
theorem validConfig_iff_inRange (c : Config) :
    c.valid = true ↔
      (∀ e, c.tl = some e → 10 ≤ e ∧ e ≤ 127) ∧ (8 ≤ c.tw ∧ c.tw ≤ 128 ∧ 8 ∣ c.tw) ∧
        (c.nm = 2 ∨ c.nm = 3) ∧ 1 ≤ c.sd ∧ 32 ≤ c.il := by
  rw [validConfig_iff, Nat.dvd_iff_mod_eq_zero]
  simp only [and_assoc]

theorem construct_of_invalid {c : Config} (invalid : ¬ c.valid = true) :
    construct c = .error .configurationError :=
  if_neg invalid

/-- A result that keeps the configuration of `s` and is no `ConfigurationError`. -/
def KeepsConfig (s : State) (r : State × Reply) : Prop :=
  r.1.cfg = s.cfg ∧ r.2 ≠ .failed .configurationError

theorem Effect.cfg_eq {s t : State} {i : Instr} (h : Effect s i t) : t.cfg = s.cfg := by
  cases h with
  | trap _ _ _ =>
    obtain ⟨cfg, -⟩ := s.trap_keeps (encodeByte i) s.cell
    exact cfg
  | _ => rfl

theorem step_cfg_eq {s t : State} (h : step s = .next t) : t.cfg = s.cfg := by
  rcases step_effect h with ⟨-, rfl⟩ | ⟨-, -, effect⟩
  · rfl
  · exact effect.cfg_eq

theorem State.returnToApplication_cfg (s : State) : s.returnToApplication.cfg = s.cfg := by
  unfold State.returnToApplication
  split <;> rfl

theorem State.writeReg_cfg (s : State) (r : RegName) (v : Nat) : (s.writeReg r v).cfg = s.cfg := by
  cases r <;> rfl

theorem State.serveStep_keepsConfig (s : State) : KeepsConfig s s.serveStep := by
  unfold State.serveStep
  split
  · next t h => exact ⟨step_cfg_eq h, nofun⟩
  · exact ⟨rfl, nofun⟩
  · exact ⟨rfl, nofun⟩

theorem State.serveSupply_keepsConfig (s : State) (b : Byte) : KeepsConfig s (s.serveSupply b) := by
  unfold State.serveSupply
  split
  · exact (s.withInput b).serveStep_keepsConfig
  · exact ⟨rfl, nofun⟩

/-- The gate of a request adds only its own failure, `busy` (R110). -/
theorem KeepsConfig.betweenSteps {s : State} {r : State × Reply} (h : KeepsConfig s r) :
    KeepsConfig s (s.betweenSteps r) := by
  unfold State.betweenSteps
  split
  · exact ⟨rfl, nofun⟩
  · exact h

theorem State.loadCode_keepsConfig (s : State) (space : CodeSpace) (image : List Byte) :
    KeepsConfig s (s.orFailed (s.loadCode space image)) := by
  rcases Nat.lt_or_ge s.cfg.il image.length with long | fits
  · rw [State.loadCode_of_lt space long]
    exact ⟨rfl, nofun⟩
  · rw [State.loadCode_of_le space fits]
    exact ⟨by cases space <;> rfl, nofun⟩

theorem State.loadTape_keepsConfig (s : State) (image : List (Nat × Nat)) :
    KeepsConfig s (s.orFailed (s.loadTape image)) := by
  unfold State.loadTape
  split <;> exact ⟨rfl, nofun⟩

theorem State.loadTapeBytes_keepsConfig (s : State) (bytes : List Byte) :
    KeepsConfig s (s.orFailed (s.loadTapeBytes bytes)) := by
  unfold State.loadTapeBytes
  split
  · exact s.loadTape_keepsConfig _
  · exact ⟨rfl, nofun⟩

theorem State.regGet_keepsConfig (s : State) (name : String) :
    KeepsConfig s (s.valueReply (s.regGet name)) := by
  unfold State.regGet
  split <;> exact ⟨rfl, nofun⟩

theorem State.regSet_keepsConfig (s : State) (name : String) (v : Nat) :
    KeepsConfig s (s.orFailed (s.regSet name v)) := by
  unfold State.regSet
  split
  · exact ⟨rfl, nofun⟩
  · next r _ =>
    split
    · exact ⟨s.writeReg_cfg r v, nofun⟩
    · exact ⟨rfl, nofun⟩

/-- Every request of the host keeps the configuration, and none fails as a construction does. -/
theorem serve_keepsConfig (q : Request) (s : State) : KeepsConfig s (serve q s) := by
  cases q with
  | reset => exact KeepsConfig.betweenSteps ⟨rfl, nofun⟩
  | loadCode space image => exact (s.loadCode_keepsConfig space image).betweenSteps
  | loadTape image => exact (s.loadTape_keepsConfig image).betweenSteps
  | loadTapeBytes bytes => exact (s.loadTapeBytes_keepsConfig bytes).betweenSteps
  | step => exact s.serveStep_keepsConfig.betweenSteps
  | supply b => exact s.serveSupply_keepsConfig b
  | takeOutput => exact ⟨rfl, nofun⟩
  | ret => exact KeepsConfig.betweenSteps ⟨s.returnToApplication_cfg, nofun⟩
  | regGet name => exact (s.regGet_keepsConfig name).betweenSteps
  | regSet name v => exact (s.regSet_keepsConfig name v).betweenSteps

/-- Settles O4: construction tests `Config.valid`, the ranges of the rules, and no request fails so. -/
theorem constructionChecksConfig : Obligations.ConstructionChecksConfig := by
  refine ⟨fun c => ?_, serve_keepsConfig⟩
  rw [← validConfig_iff_inRange]
  exact ⟨fun valid => ⟨State.initial c, (construct_eq_ok_iff c _).mpr ⟨valid, rfl⟩, rfl⟩,
    construct_of_invalid⟩

/-! ### Register writes (R216, R217) -/

/-- The names of the access interface are the eight of R215. -/
theorem RegName.ofString_eq_none {name : String}
    (h : name ∉ ["pc", "tp", "sp", "sk", "sr", "inactive_pc", "inactive_sp", "inactive_sk"]) :
    RegName.ofString name = none := by
  simp only [List.mem_cons, List.not_mem_nil, or_false, not_or] at h
  simp only [RegName.ofString, h, if_false]

/-- The legal values of `tp`: below a finite tape length, or within the width `tp` has on an unbounded tape,
where it has one (R13, R217). -/
theorem State.legalReg_tp_iff (s : State) (v : Nat) :
    s.legalReg .tp v = true ↔
      (∀ e, s.cfg.tl = some e → v < 2 ^ e) ∧
      (s.cfg.tl = none → ∀ w, s.cfg.tpWUnbounded = some w → v < 2 ^ w) := by
  rw [State.legalReg, Bool.and_eq_true, onTape_iff]
  unfold Config.tapeLength Config.fitsUnboundedTp
  cases s.cfg.tl <;> cases s.cfg.tpWUnbounded <;> simp

/-- The ordinals of the three modes are 0, 1 and 2 (R26, R28). -/
theorem Mode.isSome_ofOrdinal_iff (b : Byte) : (Mode.ofOrdinal b).isSome = true ↔ b.toNat ≤ 2 := by
  unfold Mode.ofOrdinal
  split
  · next h => simp [h]
  · split
    · next h => simp [h]
    · split
      · next h => simp [h]
      · simp only [Option.isSome_none, Bool.false_eq_true, false_iff]
        bv_omega

/-- The mode field of a 24-bit number is its upper byte (R26). -/
theorem toNat_srMode_ofNat {v : Nat} (fits : v < 2 ^ 24) :
    (srMode (BitVec.ofNat 24 v)).toNat = v / 2 ^ 16 := by
  rw [srMode, BitVec.extractLsb'_toNat, BitVec.toNat_ofNat, Nat.mod_eq_of_lt fits, Nat.shiftRight_eq_div_pow]
  omega

/-- The legal values of `sr`: 24 bits whose upper byte is the ordinal of a mode (R217). -/
theorem State.legalReg_sr_iff (s : State) (v : Nat) :
    s.legalReg .sr v = true ↔ v < 2 ^ 24 ∧ v / 2 ^ 16 ≤ 2 := by
  rw [State.legalReg, Bool.and_eq_true, decide_eq_true_iff, Mode.isSome_ofOrdinal_iff]
  exact and_congr_right fun fits => by rw [toNat_srMode_ofNat fits]

/-- Between steps a write of a named register is done on a legal value and refused on any other, `P` being
what makes a value legal (R216, R217). -/
theorem serve_regSet_of_named {s : State} {v : Nat} {name : String} {r : RegName} {P : Prop} [Decidable P]
    (notWaiting : s.answer ≠ .waiting) (named : RegName.ofString name = some r)
    (legal : s.legalReg r v = true ↔ P) :
    serve (.regSet name v) s =
      if P then (s.writeReg r v, .done) else (s, .failed .invalidValue) := by
  rw [serve, State.betweenSteps_of_not_waiting notWaiting, State.regSet, named]
  by_cases h : P
  · simp only [legal.mpr h, h, if_true, State.orFailed]
  · simp only [mt legal.mp h, h, if_false, State.orFailed, Bool.false_eq_true]

/-- The case of a register whose legal values are those up to a bound. -/
theorem serve_regSet_of_bound {s : State} {v bound : Nat} {name : String} (r : RegName)
    (notWaiting : s.answer ≠ .waiting) (named : RegName.ofString name = some r)
    (bounded : s.legalReg r v = decide (v ≤ bound)) :
    serve (.regSet name v) s =
      if v ≤ bound then (s.writeReg r v, .done) else (s, .failed .invalidValue) :=
  serve_regSet_of_named notWaiting named (by rw [bounded, decide_eq_true_iff])

theorem serve_regSet_of_unknown {s : State} {name : String} (v : Nat) (notWaiting : s.answer ≠ .waiting)
    (unknown : RegName.ofString name = none) :
    serve (.regSet name v) s = (s, .failed .unknownRegister) := by
  rw [serve, State.betweenSteps_of_not_waiting notWaiting, State.regSet, unknown]
  rfl

/-- Settles O40: each name's write is decided by its register's legal values. -/
theorem registerWrites : Obligations.RegisterWrites := by
  intro s v notWaiting
  have tpWrite :
      serve (.regSet "tp" v) s =
        if s.legalReg .tp v = true then (s.writeReg .tp v, .done) else (s, .failed .invalidValue) :=
    serve_regSet_of_named notWaiting rfl Iff.rfl
  refine ⟨serve_regSet_of_bound .pc notWaiting rfl rfl, fun finite unbounded => ?_,
    fun e tl beyond => ?_, fun tl w width beyond => ?_,
    serve_regSet_of_bound .sp notWaiting rfl rfl, serve_regSet_of_bound .sk notWaiting rfl rfl,
    serve_regSet_of_named notWaiting rfl (s.legalReg_sr_iff v),
    serve_regSet_of_bound .inactivePc notWaiting rfl rfl,
    serve_regSet_of_bound .inactiveSp notWaiting rfl rfl,
    serve_regSet_of_bound .inactiveSk notWaiting rfl rfl,
    fun name h => serve_regSet_of_unknown v notWaiting (RegName.ofString_eq_none h)⟩
  · exact tpWrite.trans (if_pos ((s.legalReg_tp_iff v).mpr ⟨finite, unbounded⟩))
  · refine tpWrite.trans (if_neg fun legal => ?_)
    obtain ⟨finite, -⟩ := (s.legalReg_tp_iff v).mp legal
    exact Nat.not_lt.mpr beyond (finite e tl)
  · refine tpWrite.trans (if_neg fun legal => ?_)
    obtain ⟨-, unbounded⟩ := (s.legalReg_tp_iff v).mp legal
    exact Nat.not_lt.mpr beyond (unbounded tl w width)

end Sys2Proof.Machine
end

section
/-! Proofs about reset and boot of spec/70_reset_and_hazards.md: what construction and the reset request set and
leave alone (R250), what a boot leaves (R252), and what the first step then runs (R251). -/

namespace Sys2Proof.Machine

/-! ### The reset request (R250) -/

theorem serve_reset_of_not_waiting {s : State} (notWaiting : s.answer ≠ .waiting) :
    serve .reset s = (s.restart, .done) :=
  State.betweenSteps_of_not_waiting notWaiting _

/-- The inversion of a reset request that is done: no step waits, and the state is `restart`'s. -/
theorem eq_restart_of_serve_reset {s t : State} (done : serve .reset s = (t, .done)) :
    t = s.restart := by
  by_cases waiting : s.answer = .waiting
  · have busy : serve .reset s = (s, .failed .busy) := if_pos (decide_eq_true waiting)
    cases busy.symm.trans done
  · cases (serve_reset_of_not_waiting waiting).symm.trans done
    rfl

/-- Settles O7: construction succeeds with `State.initial`, and the request, made between steps, leaves
`restart`, which is `State.initial` with the stores and the device of before. -/
theorem resetRequestRestoresCore : Obligations.ResetRequestRestoresCore := by
  have sized (c : Config) : (State.initial c).stack.length = c.sd := List.length_replicate
  refine ⟨fun c invalid => construct_of_invalid (Bool.eq_false_iff.mp invalid), fun c valid => ?_,
    fun s notWaiting => ?_⟩
  · exact ⟨State.initial c, (construct_eq_ok_iff c _).mpr ⟨valid, rfl⟩, sized c,
      rfl, rfl, rfl, rfl, rfl, rfl, rfl, rfl⟩
  · exact ⟨s.restart, serve_reset_of_not_waiting notWaiting, rfl, sized s.cfg,
      rfl, rfl, rfl, rfl, rfl, rfl, rfl, rfl, rfl, rfl, rfl, rfl, rfl, rfl⟩

/-! ### The boot sequence (R252) -/

/-- The inversion of a code load: an image that fits, and the store it replaces (R54). -/
theorem State.loadCode_eq_ok {s t : State} {space : CodeSpace} {image : List Byte}
    (h : s.loadCode space image = .ok t) :
    image.length ≤ s.cfg.il ∧ t = s.withCode space (Memory.ofList 0 0 image) := by
  rcases Nat.lt_or_ge s.cfg.il image.length with long | fits
  · cases (State.loadCode_of_lt space long).symm.trans h
  · exact ⟨fits, Except.ok.inj (h.symm.trans (State.loadCode_of_le space fits))⟩

/-- A sequence that succeeds does so in its first part and in what follows it. -/
theorem exists_ok_of_bind_eq_ok {ε α β : Type} {x : Except ε α} {f : α → Except ε β} {b : β}
    (h : x >>= f = .ok b) : ∃ a, x = .ok a ∧ f a = .ok b := by
  cases x with
  | error e => cases h
  | ok a => exact ⟨a, rfl, h⟩

/-- The inversion of a boot: a legal configuration, images that fit, and the initial state with them loaded
and the device attached (R252). -/
theorem boot_eq_ok {c : Config} {acode scode : List Byte} {tape : List (Nat × Nat)} {device : List Byte}
    {s : State} (h : boot c acode scode tape device = .ok s) :
    c.valid = true ∧ acode.length ≤ c.il ∧ scode.length ≤ c.il ∧
      (∀ e ∈ tape, Config.validCell c e = true) ∧
      s = { State.initial c with
        tape := Memory.ofPairs 0 tape, acode := Memory.ofList 0 0 acode,
        scode := Memory.ofList 0 0 scode, input := device } := by
  obtain ⟨_, constructed, h⟩ := exists_ok_of_bind_eq_ok h
  obtain ⟨valid, rfl⟩ := (construct_eq_ok_iff c _).mp constructed
  obtain ⟨_, acodeLoaded, h⟩ := exists_ok_of_bind_eq_ok h
  obtain ⟨acodeFits, rfl⟩ := State.loadCode_eq_ok acodeLoaded
  obtain ⟨_, scodeLoaded, h⟩ := exists_ok_of_bind_eq_ok h
  obtain ⟨scodeFits, rfl⟩ := State.loadCode_eq_ok scodeLoaded
  obtain ⟨_, tapeLoaded, h⟩ := exists_ok_of_bind_eq_ok h
  obtain ⟨cells, rfl⟩ := (State.loadTape_eq_ok_iff _ _ tape).mp tapeLoaded
  exact ⟨valid, acodeFits, scodeFits, cells, (Except.ok.inj h).symm⟩

/-! ### The first step (R251) -/

/-- Address 0 is on every tape, as a tape length is a power of 2 (R6). -/
theorem onTape_zero (c : Config) : c.onTape 0 = true := by
  rw [onTape_iff, Config.tapeLength]
  cases c.tl with
  | none => exact nofun
  | some e => exact fun _ length => Option.some.inj length ▸ Nat.two_pow_pos e

/-- The registers of a reset state pass the guard of R109 when its configuration is legal. -/
theorem State.restart_invariantsHold {s : State} (valid : s.cfg.valid = true) :
    s.restart.invariantsHold = true :=
  s.restart.invariantsHold_iff.mpr ⟨Nat.zero_le _, onTape_zero s.cfg, Nat.zero_le _, Nat.zero_le _,
    Nat.zero_le _, Nat.zero_le _, Nat.zero_le _, List.length_replicate, nofun, valid⟩

/-- The first step after a reset runs the byte the application store holds at 0, in Application mode. -/
theorem restart_runs_application_byte_zero {s : State} (valid : s.cfg.valid = true) :
    s.restart.pc = 0 ∧ s.restart.mode = some .application ∧
      step s.restart = exec (decodeByte (Memory.read s.acode 0 0)) s.restart :=
  ⟨rfl, State.initial_mode s.cfg,
    step_eq_exec s.restart .application .acode (State.initial_mode s.cfg) rfl
      (State.restart_invariantsHold valid)⟩

/-- Settles O8: a booted state is one that the reset request would leave as it is, with the image in the
application store. -/
theorem firstStepRunsApplicationByteZero : Obligations.FirstStepRunsApplicationByteZero := by
  refine ⟨fun c acode scode tape device s booted => ?_, fun s t valid done => ?_⟩
  · obtain ⟨valid, -, -, -, loaded⟩ := boot_eq_ok booted
    have legal : s.cfg.valid = true := by rw [loaded]; exact valid
    have atReset : s.restart = s := by rw [loaded]; rfl
    have first : Memory.read s.acode 0 0 = acode.getD 0 0 := by
      rw [loaded]
      exact Memory.read_ofList (0 : Byte) acode 0 0
    have runs := restart_runs_application_byte_zero legal
    rwa [atReset, first] at runs
  · cases eq_restart_of_serve_reset done
    exact restart_runs_application_byte_zero valid

end Sys2Proof.Machine
end

section
/-! Proofs about the encoding of spec/30_encoding.md: the nine opcode bytes (R81), the comment class as their
complement (R82), and that decoding and encoding are inverse to each other (R80, R87). -/

namespace Sys2Proof.Machine

/-! ### The comment class (R82) -/

theorem wellFormed_comment_iff (b : Byte) : (Instr.comment b).wellFormed = true ↔ b ∉ opcodeBytes := by
  simp [Instr.wellFormed]

/-- A byte outside the opcode table falls through every test of the decoder. -/
theorem decodeByte_of_not_mem {b : Byte} (h : b ∉ opcodeBytes) : decodeByte b = .comment b := by
  simp only [opcodeBytes, List.mem_cons, List.not_mem_nil, or_false, not_or] at h
  simp only [decodeByte, h, if_false]

/-- Of a byte in the opcode table the decoder makes one of the nine opcodes, of any other a comment that is
none of them. -/
theorem wellFormed_decodeByte (b : Byte) : (decodeByte b).wellFormed = true := by
  by_cases h : b ∈ opcodeBytes
  · have opcodes : ∀ c ∈ opcodeBytes, (decodeByte c).wellFormed = true := by decide
    exact opcodes b h
  · rw [decodeByte_of_not_mem h]
    exact (wellFormed_comment_iff b).mpr h

theorem decodeByte_eq_comment_iff (b : Byte) : decodeByte b = .comment b ↔ b ∉ opcodeBytes := by
  refine ⟨fun comment => ?_, decodeByte_of_not_mem⟩
  have wellFormed := wellFormed_decodeByte b
  rwa [comment, wellFormed_comment_iff] at wellFormed

/-! ### Decoding and encoding are inverse (R80, R87) -/

theorem decodeByte_encodeByte {i : Instr} (h : i.wellFormed = true) : decodeByte (encodeByte i) = i := by
  cases i with
  | comment b => exact decodeByte_of_not_mem ((wellFormed_comment_iff b).mp h)
  | _ => rfl

/-- Settles O3: on bytes the two functions are inverse to each other, and `decode` and `encode` are those
functions on the first byte. -/
theorem decodeEncodeRoundTrip : Obligations.DecodeEncodeRoundTrip := by
  refine ⟨fun i rest wf => ?_, fun b rest => ?_, fun i => rfl, fun i j wfi wfj same => ?_⟩
  · rw [encode, List.singleton_append, decode, decodeByte_encodeByte wf]
  · exact ⟨decodeByte b, rfl, wellFormed_decodeByte b, by rw [encode, encodeByte_decodeByte]⟩
  · have sameByte : encodeByte i = encodeByte j := (List.cons.inj same).1
    rw [← decodeByte_encodeByte wfi, sameByte, decodeByte_encodeByte wfj]

/-- Settles O1: the decoder's own tests, one for each opcode byte. -/
theorem opcodeBytesDecode : Obligations.OpcodeBytesDecode :=
  ⟨rfl, rfl, rfl, rfl, rfl, rfl, rfl, rfl, rfl⟩

/-- Settles O2: a comment is a byte outside the table, where 247 of the 256 bytes are, and executes as one. -/
theorem commentsAreTheOtherBytes : Obligations.CommentsAreTheOtherBytes := by
  refine ⟨decodeByte_eq_comment_iff, by decide +kernel, fun b s sk comment => ?_⟩
  rw [comment]
  exact exec_comment_of_not_skipping b sk

end Sys2Proof.Machine
end

section
/-! Proofs about stores in canonical form (spec/20_memory.md section 1): the form is extensional, so equal reads
are equal data (R52, R55). -/

namespace Sys2Proof.Machine

/-- The parts of a canonical store: a head that is not the unlisted unit, below a canonical tail. -/
theorem Memory.wf_cons {α : Type} [DecidableEq α] {d : α} {e : Nat × α} {m : List (Nat × α)}
    (wf : Memory.wf d (e :: m) = true) : (∀ x ∈ m, e.1 < x.1) ∧ e.2 ≠ d ∧ Memory.wf d m = true := by
  obtain ⟨rising, units⟩ := (Memory.wf_iff d _).mp wf
  obtain ⟨above, tail⟩ := List.pairwise_cons.mp rising
  obtain ⟨head, rest⟩ := List.forall_mem_cons.mp units
  exact ⟨above, head, (Memory.wf_iff d m).mpr ⟨tail, rest⟩⟩

theorem Memory.read_head (d : α) (e : Nat × α) (m : List (Nat × α)) : Memory.read (e :: m) d e.1 = e.2 :=
  if_pos rfl

/-- An address below every listed one reads the unlisted unit. -/
theorem Memory.read_of_le {α : Type} {d : α} {k a : Nat} {m : List (Nat × α)}
    (above : ∀ e ∈ m, k < e.1) (h : a ≤ k) : Memory.read m d a = d :=
  Memory.read_absent d m a fun e he => Nat.ne_of_gt (Nat.lt_of_le_of_lt h (above e he))

/-- Of two canonical stores that read alike neither starts below the other: its head would be read in it
alone. -/
theorem Memory.head_le_of_read_eq {α : Type} [DecidableEq α] {d : α} {e e' : Nat × α}
    {m m' : List (Nat × α)} (wf : Memory.wf d (e :: m) = true) (wf' : Memory.wf d (e' :: m') = true)
    (same : ∀ a, Memory.read (e :: m) d a = Memory.read (e' :: m') d a) : e'.1 ≤ e.1 := by
  by_contra lower
  obtain ⟨-, listed, -⟩ := Memory.wf_cons wf
  obtain ⟨above', -, -⟩ := Memory.wf_cons wf'
  have unlisted : Memory.read (e' :: m') d e.1 = d := by
    rw [Memory.read_cons, if_neg (by omega), Memory.read_of_le above' (by omega)]
  rw [← same, Memory.read_head] at unlisted
  exact listed unlisted

/-- The tails of two stores with the same head read alike when the stores do. -/
theorem Memory.read_tail_eq {α : Type} {d : α} {e : Nat × α} {m m' : List (Nat × α)}
    (above : ∀ x ∈ m, e.1 < x.1) (above' : ∀ x ∈ m', e.1 < x.1)
    (same : ∀ a, Memory.read (e :: m) d a = Memory.read (e :: m') d a) (a : Nat) :
    Memory.read m d a = Memory.read m' d a := by
  by_cases low : a ≤ e.1
  · rw [Memory.read_of_le above low, Memory.read_of_le above' low]
  · have other : e.1 ≠ a := by omega
    have whole := same a
    rwa [Memory.read_cons, Memory.read_cons, if_neg other, if_neg other] at whole

/-- Two canonical stores that read alike are the same list: their heads agree in address and unit, and so do
their tails. -/
theorem Memory.eq_of_read_eq {α : Type} [DecidableEq α] {d : α} {m m' : List (Nat × α)}
    (wf : Memory.wf d m = true) (wf' : Memory.wf d m' = true)
    (same : ∀ a, Memory.read m d a = Memory.read m' d a) : m = m' := by
  induction m generalizing m' with
  | nil =>
    cases m' with
    | nil => rfl
    | cons e' m' =>
      obtain ⟨-, listed, -⟩ := Memory.wf_cons wf'
      exact absurd ((same e'.1).trans (Memory.read_head d e' m')).symm listed
  | cons e m ih =>
    obtain ⟨above, listed, tail⟩ := Memory.wf_cons wf
    cases m' with
    | nil => exact absurd ((Memory.read_head d e m).symm.trans (same e.1)) listed
    | cons e' m' =>
      obtain ⟨above', -, tail'⟩ := Memory.wf_cons wf'
      have keys : e.1 = e'.1 := Nat.le_antisymm (Memory.head_le_of_read_eq wf' wf fun a => (same a).symm)
        (Memory.head_le_of_read_eq wf wf' same)
      have units : e.2 = e'.2 := by
        rw [← Memory.read_head d e m, same, keys, Memory.read_head]
      obtain rfl : e = e' := Prod.ext keys units
      rw [ih tail tail' (Memory.read_tail_eq above above' same)]

/-- Settles O41: extensionality for the units of the tape and for those of the code stores. -/
theorem canonicalStoresAreExtensional : Obligations.CanonicalStoresAreExtensional :=
  ⟨fun _ _ => Memory.eq_of_read_eq, fun _ _ => Memory.eq_of_read_eq⟩

end Sys2Proof.Machine
end

section
/-! Proofs about the invariants of spec/10_state.md section 5 (R35): one rule for each operation that an
instruction or a request is made of, and from these what holds after a step, a request and a session. -/

namespace Sys2Proof.Machine

/-! ### What the invariant says of the fetched code -/

/-- A store whose image lies below `il` reads 0x00 from there on (R55). -/
theorem SessionInv.codeAt_of_ge {s : State} (inv : SessionInv s) (space : CodeSpace) {a : Nat}
    (beyond : s.cfg.il ≤ a) : s.codeAt space a = 0 := by
  cases space with
  | acode => exact Memory.read_absent 0 s.acode a fun e he => by have := inv.acodeBelow e he; omega
  | scode => exact Memory.read_absent 0 s.scode a fun e he => by have := inv.scodeBelow e he; omega

theorem SessionInv.fetched_of_ge {s : State} (inv : SessionInv s) (beyond : s.cfg.il ≤ s.pc) :
    s.fetched = .nul := by
  unfold State.fetched State.fetchedByte
  rw [inv.codeAt_of_ge .acode beyond, inv.codeAt_of_ge .scode beyond, ite_self]
  rfl

/-- An instruction that is not the NUL beyond the image lies below `il`, so `pc` has room to move on. -/
theorem SessionInv.pc_lt_of_fetched {s : State} (inv : SessionInv s) (h : s.fetched ≠ .nul) :
    s.pc < s.cfg.il :=
  Nat.lt_of_not_le (mt inv.fetched_of_ge h)

/-! ### `SessionInv` under the operations of an instruction -/

section
variable {s : State} (inv : SessionInv s)
include inv

theorem SessionInv.setAnswer (a : StepAnswer) : SessionInv (s.setAnswer a) := { inv with }

theorem SessionInv.setPc {v : Nat} (h : v ≤ s.cfg.il) : SessionInv (s.setPc v) := { inv with pcLe := h }

theorem SessionInv.onward (cycles : Nat) (h : s.pc < s.cfg.il) : SessionInv (s.onward cycles) :=
  (inv.setPc h).setAnswer _

theorem SessionInv.inPlace : SessionInv s.inPlace := inv.setAnswer _

theorem SessionInv.setTp {v : Nat} (h : s.cfg.onTape v = true) : SessionInv (s.setTp v) :=
  { inv with tpOn := h }

theorem SessionInv.setSk {v : Nat} (h : v ≤ s.cfg.il + 1) : SessionInv (s.setSk v) :=
  { inv with skLe := h }

theorem SessionInv.writeCell {v : Nat} (h : v < s.cfg.cellValues) : SessionInv (s.writeCell v) :=
  { inv with
    tapeWf := Memory.wf_write 0 s.tape s.tp v inv.tapeWf
    tapeOn := fun e he => by
      rcases Memory.mem_write 0 s.tape s.tp v e he with ⟨rfl, -⟩ | old
      · exact inv.tpOn
      · exact inv.tapeOn e old
    tapeCells := fun e he => by
      rcases Memory.mem_write 0 s.tape s.tp v e he with ⟨rfl, -⟩ | old
      · exact h
      · exact inv.tapeCells e old }

theorem SessionInv.sendByte (b : Byte) : SessionInv (s.sendByte b) := { inv with }

theorem SessionInv.takeInput (rest : List Byte) : SessionInv (s.takeInput rest) := { inv with }

theorem SessionInv.withInput (b : Byte) : SessionInv (s.withInput b) := { inv with }

theorem SessionInv.pushPc (room : s.sp ≠ s.cfg.sd) (h : s.pc < s.cfg.il) : SessionInv s.pushPc :=
  { inv with
    spLe := Nat.lt_of_le_of_ne inv.spLe room
    stackSized := (List.length_set ..).trans inv.stackSized
    stackBelow := fun a ha => by
      rcases List.mem_or_eq_of_mem_set ha with old | rfl
      · exact inv.stackBelow a old
      · exact h }

theorem SessionInv.popEntry : SessionInv s.popEntry :=
  { inv with spLe := Nat.le_trans (Nat.sub_le ..) inv.spLe }

theorem SessionInv.setMode (m : Mode) : SessionInv (s.setMode m) :=
  { inv with modeLegal := by rw [State.setMode_mode]; rfl }

theorem SessionInv.trap (op : Byte) (c : Nat) (h : s.sk ≤ s.cfg.il) : SessionInv (s.trap op c) := by
  by_cases app : s.mode = some .application
  · have entered : (s.trap op c).mode.isSome = true := by rw [s.trap_mode, if_pos app]; rfl
    rw [s.trap_of_application op c app] at entered ⊢
    exact { inv with
      pcLe := Nat.zero_le _, spLe := Nat.zero_le _, skLe := Nat.zero_le _, inactivePcLe := inv.pcLe,
      inactiveSpLe := inv.spLe, inactiveSkLe := h, modeLegal := entered }
  · rw [s.trap_of_other op c app]
    exact inv.setMode .halt

/-! ### What an instruction computes is in range -/

theorem SessionInv.stackTop_lt (nonempty : s.sp ≠ 0) : s.stackTop < s.cfg.il := by
  have inside : s.sp - 1 < s.stack.length := by
    have := inv.spLe
    have := inv.stackSized
    omega
  rw [State.stackTop, List.getD_eq_getElem s.stack 0 inside]
  exact inv.stackBelow _ (List.getElem_mem inside)

/-- A byte fits every legal cell (R7, R181). -/
theorem SessionInv.inputCell_lt (b : Byte) : inputCell b < s.cfg.cellValues := by
  obtain ⟨-, atLeastByte, -⟩ := (validConfig_iff s.cfg).mp inv.cfgValid
  exact Nat.lt_of_lt_of_le b.isLt (Nat.pow_le_pow_right (by decide) atLeastByte)

theorem SessionInv.onTape_right (h : ¬ s.trapsOn .right) : s.cfg.onTape (s.tp + 1) = true :=
  (onTape_iff ..).mpr fun n length => by
    have below : s.tp < n := (onTape_iff ..).mp inv.tpOn n length
    have notTop : s.tp + 1 ≠ n := fun top => h (length.trans (congrArg some top.symm))
    omega

theorem SessionInv.onTape_left : s.cfg.onTape (s.tp - 1) = true :=
  (onTape_iff ..).mpr fun n length => Nat.lt_of_le_of_lt (Nat.sub_le ..) ((onTape_iff ..).mp inv.tpOn n length)

end

theorem mod_cellValues_lt (c : Config) (v : Nat) : v % c.cellValues < c.cellValues :=
  Nat.mod_lt _ (Nat.two_pow_pos c.tw)

/-! ### A step -/

/-- An instruction keeps `SessionInv` where the guard has held and `pc` may move on (R35). -/
theorem Effect.sessionInv {s t : State} {i : Instr} (h : Effect s i t) (inv : SessionInv s)
    (sk : s.sk ≤ s.cfg.il) (inside : i ≠ .nul → s.pc < s.cfg.il) : SessionInv t := by
  cases h with
  | skip i _ _ _ notNul => exact inv.onward 1 (inside notNul)
  | nul => exact (inv.setMode .halt).inPlace
  | trap i _ _ => exact (inv.trap _ _ sk).inPlace
  | right _ below => exact (inv.setTp (inv.onTape_right below)).onward 1 (inside nofun)
  | left _ _ => exact (inv.setTp inv.onTape_left).onward 1 (inside nofun)
  | inc _ => exact (inv.writeCell (mod_cellValues_lt s.cfg _)).onward 1 (inside nofun)
  | dec _ => exact (inv.writeCell (mod_cellValues_lt s.cfg _)).onward 1 (inside nofun)
  | output _ => exact (inv.sendByte _).onward 1 (inside nofun)
  | inputWrite b rest _ _ _ =>
    exact ((inv.takeInput rest).writeCell (inv.inputCell_lt b)).onward 1 (inside nofun)
  | inputDrop b rest _ _ _ => exact (inv.takeInput rest).onward 1 (inside nofun)
  | inputWait _ _ => exact inv.setAnswer .waiting
  | comment b _ => exact inv.onward 0 (inside nofun)
  | openNested _ => exact (inv.setSk (Nat.succ_le_succ sk)).onward 1 (inside nofun)
  | openSkip _ _ => exact (inv.setSk (Nat.le_add_left 1 _)).onward 1 (inside nofun)
  | openPush _ _ room => exact (inv.pushPc room (inside nofun)).onward 1 (inside nofun)
  | closeSkip _ => exact (inv.setSk (Nat.le_trans (Nat.sub_le ..) inv.skLe)).onward 1 (inside nofun)
  | closeBack _ nonempty _ =>
    exact (inv.popEntry.setPc (Nat.le_of_lt (inv.stackTop_lt nonempty))).inPlace
  | closeExit _ _ _ => exact inv.popEntry.onward 1 (inside nofun)

theorem SessionInv.of_step {s t : State} (inv : SessionInv s) (h : step s = .next t) : SessionInv t := by
  rcases step_effect h with ⟨-, rfl⟩ | ⟨-, guard, effect⟩
  · exact inv.setAnswer _
  · obtain ⟨-, -, sk, -⟩ := s.invariantsHold_iff.mp guard
    exact effect.sessionInv inv sk inv.pc_lt_of_fetched

/-- A counted bracket is one that `pc` passes (R153), and every other instruction that moves `pc` elsewhere is
executed with `sk = 0` (R155). -/
theorem Effect.sk_le_pc {s t : State} {i : Instr} (h : Effect s i t) (le : s.sk ≤ s.pc) : t.sk ≤ t.pc := by
  cases h with
  | trap i sk _ =>
    unfold State.trap
    split
    · exact Nat.le_refl 0
    · exact le
  | openNested _ => exact Nat.succ_le_succ le
  | openSkip _ _ => exact Nat.le_add_left 1 _
  | closeSkip _ => exact Nat.le_trans (Nat.sub_le ..) (Nat.le_succ_of_le le)
  | closeBack sk _ _ => exact Nat.le_trans (Nat.le_of_eq sk) (Nat.zero_le _)
  | nul => exact le
  | inputWait _ _ => exact le
  | _ => exact Nat.le_succ_of_le le

/-- Only a trap writes the shadows, and it saves a pair in the same order (R201). -/
theorem Effect.inactiveSk_le_inactivePc {s t : State} {i : Instr} (h : Effect s i t) (le : s.sk ≤ s.pc)
    (saved : s.inactiveSk ≤ s.inactivePc) : t.inactiveSk ≤ t.inactivePc := by
  cases h with
  | trap i _ _ =>
    unfold State.trap
    split
    · exact le
    · exact saved
  | _ => exact saved

theorem RunInv.of_step {s t : State} (inv : RunInv s) (h : step s = .next t) : RunInv t := by
  have session := inv.toSessionInv.of_step h
  rcases step_effect h with ⟨-, rfl⟩ | ⟨-, -, effect⟩
  · exact { session with skLePc := inv.skLePc, inactiveSkLePc := inv.inactiveSkLePc }
  · exact { session with
      skLePc := effect.sk_le_pc inv.skLePc
      inactiveSkLePc := effect.inactiveSk_le_inactivePc inv.skLePc inv.inactiveSkLePc }

/-- Settles O18: each effect keeps the bounds; for `sk ≤ pc` the effects that count and that jump matter. -/
theorem stepKeepsInv : Obligations.StepKeepsInv := fun _ _ => RunInv.of_step

/-! ### The host's requests -/

/-- A predicate that each part of the host's requests keeps, a register write left out. -/
structure KeptByRequests (P : State → Prop) : Prop where
  step {s t : State} : P s → step s = .next t → P t
  input {s : State} (b : Byte) : P s → P (s.withInput b)
  code {s : State} {image : List Byte} (space : CodeSpace) :
    P s → image.length ≤ s.cfg.il → P (s.withCode space (Memory.ofList 0 0 image))
  tape {s : State} {image : List (Nat × Nat)} :
    P s → (∀ e ∈ image, Config.validCell s.cfg e = true) → P { s with tape := Memory.ofPairs 0 image }
  ret {s : State} : P s → P s.returnToApplication
  restart {s : State} : P s → P s.restart

section
variable {P : State → Prop} {s : State}

theorem betweenSteps_keeps {r : State × Reply} (old : P s) (own : P r.1) : P (s.betweenSteps r).1 := by
  rcases s.betweenSteps_fst r with same | result
  · rwa [same]
  · rwa [result]

theorem orFailed_keeps {e : Except HostError State} (old : P s) (own : ∀ t, e = .ok t → P t) :
    P (s.orFailed e).1 := by
  rcases s.orFailed_fst e with same | ok
  · rwa [same]
  · exact own _ ok

theorem serveStep_keeps (old : P s) (own : ∀ t, step s = .next t → P t) : P s.serveStep.1 := by
  unfold State.serveStep
  split
  · next t h => exact own t h
  · exact old
  · exact old

theorem KeptByRequests.loadTape (kept : KeptByRequests P) (h : P s) {t : State} {image : List (Nat × Nat)}
    (ok : s.loadTape image = .ok t) : P t := by
  obtain ⟨cells, rfl⟩ := (s.loadTape_eq_ok_iff t image).mp ok
  exact kept.tape h cells

theorem KeptByRequests.serve (kept : KeptByRequests P) (h : P s) {q : Request}
    (noWrite : ∀ name v, q ≠ .regSet name v) : P (serve q s).1 := by
  cases q with
  | reset => exact betweenSteps_keeps h (kept.restart h)
  | loadCode space image =>
    refine betweenSteps_keeps h (orFailed_keeps h fun t ok => ?_)
    obtain ⟨fits, rfl⟩ := State.loadCode_eq_ok ok
    exact kept.code space h fits
  | loadTape image => exact betweenSteps_keeps h (orFailed_keeps h fun _ => kept.loadTape h)
  | loadTapeBytes bytes =>
    exact betweenSteps_keeps h (orFailed_keeps h fun _ ok => kept.loadTape h (State.loadTapeBytes_eq_ok ok))
  | step => exact betweenSteps_keeps h (serveStep_keeps h fun _ => kept.step h)
  | supply b =>
    have supplied : P (s.withInput b) := kept.input b h
    simp only [Machine.serve, State.serveSupply]
    split
    · exact serveStep_keeps supplied fun _ => kept.step supplied
    · exact h
  | takeOutput => exact h
  | ret => exact betweenSteps_keeps h (kept.ret h)
  | regGet name => exact betweenSteps_keeps h (by rwa [s.valueReply_fst])
  | regSet name v => exact absurd rfl (noWrite name v)

end

/-! ### `SessionInv` under the operations of a request -/

section
variable {s : State} (inv : SessionInv s)
include inv

theorem SessionInv.withCode (space : CodeSpace) {image : List Byte} (fits : image.length ≤ s.cfg.il) :
    SessionInv (s.withCode space (Memory.ofList 0 0 image)) := by
  have wf := Memory.wf_ofList (0 : Byte) image 0
  have below : ∀ e ∈ Memory.ofList (0 : Byte) 0 image, e.1 < s.cfg.il := fun e he => by
    obtain ⟨-, inImage, -⟩ := Memory.mem_ofList 0 image 0 e he
    omega
  cases space with
  | acode => exact { inv with acodeWf := wf, acodeBelow := below }
  | scode => exact { inv with scodeWf := wf, scodeBelow := below }

theorem SessionInv.withTape {image : List (Nat × Nat)}
    (cells : ∀ e ∈ image, Config.validCell s.cfg e = true) :
    SessionInv { s with tape := Memory.ofPairs 0 image } := by
  have legal : ∀ e ∈ Memory.ofPairs 0 image, s.cfg.onTape e.1 = true ∧ e.2 < s.cfg.cellValues :=
    fun e he => by
      have cell := cells e (Memory.mem_ofPairs 0 image e he)
      rwa [Config.validCell, Bool.and_eq_true, decide_eq_true_eq] at cell
  exact { inv with
    tapeWf := Memory.wf_ofPairs 0 image
    tapeOn := fun e he => (legal e he).1
    tapeCells := fun e he => (legal e he).2 }

theorem SessionInv.ret : SessionInv s.returnToApplication := by
  by_cases sup : s.mode = some .supervisor
  · have application : s.returnToApplication.mode = some .application := by
      rw [State.returnToApplication_of_supervisor sup, State.mode_eq_some, srMode_withMode]
    have legal : s.returnToApplication.mode.isSome = true := by rw [application]; rfl
    rw [State.returnToApplication_of_supervisor sup] at legal ⊢
    exact { inv with
      pcLe := inv.inactivePcLe, spLe := inv.inactiveSpLe, skLe := Nat.le_succ_of_le inv.inactiveSkLe,
      inactivePcLe := Nat.zero_le _, inactiveSpLe := Nat.zero_le _, inactiveSkLe := Nat.zero_le _,
      modeLegal := legal }
  · rwa [State.returnToApplication_of_other sup]

theorem SessionInv.writeReg {r : RegName} {v : Nat} (legal : s.legalReg r v = true) :
    SessionInv (s.writeReg r v) := by
  cases r with
  | tp =>
    rw [State.legalReg, Bool.and_eq_true] at legal
    exact inv.setTp legal.1
  | sr =>
    rw [State.legalReg, Bool.and_eq_true] at legal
    exact { inv with modeLegal := legal.2 }
  | pc => exact inv.setPc (of_decide_eq_true legal)
  | sp => exact { inv with spLe := of_decide_eq_true legal }
  | sk => exact inv.setSk (Nat.le_succ_of_le (of_decide_eq_true legal))
  | inactivePc => exact { inv with inactivePcLe := of_decide_eq_true legal }
  | inactiveSp => exact { inv with inactiveSpLe := of_decide_eq_true legal }
  | inactiveSk => exact { inv with inactiveSkLe := of_decide_eq_true legal }

end

/-- The entries of the call stack are below `il` because the model sets them to 0 (notes/assumptions/2.md). -/
theorem SessionInv.initial {c : Config} (valid : c.valid = true) : SessionInv (State.initial c) where
  cfgValid := valid
  pcLe := Nat.zero_le _
  tpOn := onTape_zero c
  spLe := Nat.zero_le _
  skLe := Nat.zero_le _
  inactivePcLe := Nat.zero_le _
  inactiveSpLe := Nat.zero_le _
  inactiveSkLe := Nat.zero_le _
  modeLegal := by rw [State.initial_mode]; rfl
  stackSized := List.length_replicate
  stackBelow := fun a ha => by
    obtain ⟨-, -, -, -, -, -, capacity⟩ := (validConfig_iff c).mp valid
    rw [List.eq_of_mem_replicate ha]
    exact Nat.lt_of_lt_of_le (by decide) capacity
  tapeWf := Memory.wf_nil 0
  tapeOn := nofun
  tapeCells := nofun
  acodeWf := Memory.wf_nil 0
  acodeBelow := nofun
  scodeWf := Memory.wf_nil 0
  scodeBelow := nofun

theorem RunInv.initial {c : Config} (valid : c.valid = true) : RunInv (State.initial c) :=
  { SessionInv.initial valid with skLePc := Nat.le_refl 0, inactiveSkLePc := Nat.le_refl 0 }

theorem SessionInv.restart {s : State} (inv : SessionInv s) : SessionInv s.restart :=
  { SessionInv.initial inv.cfgValid with
    tapeWf := inv.tapeWf, tapeOn := inv.tapeOn, tapeCells := inv.tapeCells, acodeWf := inv.acodeWf,
    acodeBelow := inv.acodeBelow, scodeWf := inv.scodeWf, scodeBelow := inv.scodeBelow }

theorem sessionInv_keptByRequests : KeptByRequests SessionInv where
  step := SessionInv.of_step
  input b inv := inv.withInput b
  code space inv := inv.withCode space
  tape inv cells := inv.withTape cells
  ret := SessionInv.ret
  restart := SessionInv.restart

theorem SessionInv.serve {s : State} (inv : SessionInv s) (q : Request) : SessionInv (serve q s).1 := by
  cases q with
  | regSet name v =>
    refine betweenSteps_keeps inv (orFailed_keeps inv fun t ok => ?_)
    obtain ⟨r, -, legal, rfl⟩ := State.regSet_eq_ok ok
    exact inv.writeReg legal
  | _ => exact sessionInv_keptByRequests.serve inv nofun

theorem SessionInv.serveAll {s : State} (inv : SessionInv s) (qs : List Request) :
    SessionInv (serveAll qs s) := by
  induction qs generalizing s with
  | nil => exact inv
  | cons q qs ih => exact ih (inv.serve q)

/-- The return of a pair saved in order brings it back in order; the cleared shadows are in order too. -/
theorem RunInv.ret {s : State} (inv : RunInv s) : RunInv s.returnToApplication := by
  have session := inv.toSessionInv.ret
  by_cases sup : s.mode = some .supervisor
  · rw [State.returnToApplication_of_supervisor sup] at session ⊢
    exact { session with skLePc := inv.inactiveSkLePc, inactiveSkLePc := Nat.le_refl 0 }
  · rwa [State.returnToApplication_of_other sup]

theorem runInv_keptByRequests : KeptByRequests RunInv where
  step := RunInv.of_step
  input b inv :=
    { inv.withInput b with skLePc := inv.skLePc, inactiveSkLePc := inv.inactiveSkLePc }
  code space inv fits :=
    { inv.withCode space fits with
      skLePc := by cases space <;> exact inv.skLePc
      inactiveSkLePc := by cases space <;> exact inv.inactiveSkLePc }
  tape inv cells :=
    { inv.withTape cells with skLePc := inv.skLePc, inactiveSkLePc := inv.inactiveSkLePc }
  ret := RunInv.ret
  restart inv :=
    { inv.toSessionInv.restart with skLePc := Nat.le_refl 0, inactiveSkLePc := Nat.le_refl 0 }

/-- Settles O56: a request but a register write is made of parts that each keep the invariant. -/
theorem requestsKeepRunInv : Obligations.RequestsKeepRunInv :=
  fun _ _ inv noWrite => runInv_keptByRequests.serve inv noWrite

/-- Settles O19: by induction on the session, a register write adding only what R217 lets through. -/
theorem sessionKeepsSessionInv : Obligations.SessionKeepsSessionInv :=
  ⟨fun qs _ inv => inv.serveAll qs, fun _ inv =>
    ⟨runInv_keptByRequests.serve inv nofun, runInv_keptByRequests.serve inv nofun,
      fun _ _ => runInv_keptByRequests.serve inv nofun⟩⟩

/-- Settles O6: construction gives the initial state of a legal configuration, as is that of `State.reset`. -/
theorem resetMeetsInv : Obligations.ResetMeetsInv := by
  refine ⟨RunInv.initial (by decide), fun c s constructed => ?_⟩
  obtain ⟨valid, rfl⟩ := (construct_eq_ok_iff c s).mp constructed
  exact RunInv.initial valid

end Sys2Proof.Machine
end

section
/-! Proofs about what the bounds of R35 are used for: the guard of spec/40_step_engine.md R109, the register
widths of spec/00_scope.md R11, and the code beyond a store's image (spec/20_memory.md R55). -/

namespace Sys2Proof.Machine

/-! ### The guard (R109) -/

/-- An address of the tape, as the ranges of R6 and R35 write it. -/
theorem onTape_iff_lt_two_pow (c : Config) (a : Nat) :
    c.onTape a = true ↔ ∀ e, c.tl = some e → a < 2 ^ e := by
  rw [onTape_iff, Config.tapeLength]
  cases c.tl <;> simp

/-- A bound on the first `n` entries of a list that has them, index by index. -/
theorem forall_mem_take_lt_iff {l : List Nat} {n : Nat} (bound : Nat) (sized : n ≤ l.length) :
    (∀ a ∈ l.take n, a < bound) ↔ ∀ j, j < n → ∃ a, l[j]? = some a ∧ a < bound := by
  constructor
  · intro below j hj
    have inside : j < l.length := Nat.lt_of_lt_of_le hj sized
    refine ⟨l[j], List.getElem?_eq_getElem inside, below _ (List.mem_take_iff_getElem.mpr ⟨j, ?_, rfl⟩)⟩
    exact Nat.lt_min.mpr ⟨hj, inside⟩
  · intro below a ha
    obtain ⟨j, hj, rfl⟩ := List.mem_take_iff_getElem.mp ha
    obtain ⟨hn, inside⟩ := Nat.lt_min.mp hj
    obtain ⟨a, entry, lt⟩ := below j hn
    rw [List.getElem?_eq_getElem inside, Option.some.injEq] at entry
    rwa [entry]

/-- Settles O13: the guard's conjunction is the table, the live entries named by their index. -/
theorem guardIsTheInvariantTable : Obligations.GuardIsTheInvariantTable := by
  intro s
  rw [s.invariantsHold_iff, onTape_iff_lt_two_pow]
  constructor
  · rintro ⟨sp, tp, sk, pc, inactiveSp, inactivePc, inactiveSk, sized, live, valid⟩
    exact ⟨sp, tp, sk, pc, inactiveSp, inactivePc, inactiveSk, sized,
      (forall_mem_take_lt_iff _ (sp.trans_eq sized.symm)).mp live, valid⟩
  · rintro ⟨sp, tp, sk, pc, inactiveSp, inactivePc, inactiveSk, sized, live, valid⟩
    exact ⟨sp, tp, sk, pc, inactiveSp, inactivePc, inactiveSk, sized,
      (forall_mem_take_lt_iff _ (sp.trans_eq sized.symm)).mpr live, valid⟩

/-- R109's own four checks, each of which the guard makes. -/
theorem invariantsHold_eq_false_of_bound {s : State}
    (broken : s.cfg.sd < s.sp ∨ (∃ e, s.cfg.tl = some e ∧ 2 ^ e ≤ s.tp) ∨ s.cfg.il < s.sk ∨
      s.cfg.il < s.pc) :
    s.invariantsHold = false := by
  by_contra holds
  obtain ⟨sp, tp, sk, pc, -⟩ := (guardIsTheInvariantTable s).mp (Bool.eq_true_of_not_eq_false holds)
  rcases broken with sp' | ⟨e, tl, tp'⟩ | sk' | pc'
  · exact Nat.not_lt.mpr sp sp'
  · exact Nat.not_lt.mpr tp' (tp e tl)
  · exact Nat.not_lt.mpr sk sk'
  · exact Nat.not_lt.mpr pc pc'

/-- Under `RunInv` the guard holds: `sk ≤ il` by way of `pc` (R153), and all entries are bounded. -/
theorem RunInv.invariantsHold {s : State} (inv : RunInv s) : s.invariantsHold = true :=
  s.invariantsHold_iff.mpr ⟨inv.spLe, inv.tpOn, inv.skLePc.trans inv.pcLe, inv.pcLe, inv.inactiveSpLe,
    inv.inactivePcLe, inv.inactiveSkLe, inv.stackSized,
    fun a ha => inv.stackBelow a (List.mem_of_mem_take ha), inv.cfgValid⟩

theorem RunInv.step_next {s : State} (inv : RunInv s) : ∃ t, step s = .next t := by
  rcases step_outcome s with next | ⟨f, stopped, -⟩
  · exact next
  · rcases (s.fetchStage_eq_stopped_iff f).mp stopped with ⟨-, noMode⟩ | ⟨-, -, broken⟩
    · have legal := inv.modeLegal
      simp [noMode] at legal
    · cases inv.invariantsHold.symm.trans broken

/-- Settles O12: the guard reads no code store, so it stops the step whatever they hold; under `RunInv` it
holds. -/
theorem guardStopsBrokenStates : Obligations.GuardStopsBrokenStates := by
  refine ⟨fun s mode broken acode scode => ?_, fun s inv => inv.step_next⟩
  have guard : ({ s with acode := acode, scode := scode } : State).invariantsHold = false :=
    invariantsHold_eq_false_of_bound broken
  exact (step_eq_fault_iff _ _).mpr
    ((State.fetchStage_eq_stopped_iff _ _).mpr (.inr ⟨rfl, mode, guard⟩))

/-! ### The register widths (R11) -/

/-- `bitsFor n` bits hold every value up to `n`. -/
theorem lt_two_pow_bitsFor {v n : Nat} (h : v ≤ n) : v < 2 ^ bitsFor n := by
  unfold bitsFor
  split
  · omega
  · exact Nat.lt_of_le_of_lt h Nat.lt_log2_self

/-- Settles O55: each register's bound is the number its width is computed from. -/
theorem registersFitTheirWidths : Obligations.RegistersFitTheirWidths := by
  intro s inv
  exact ⟨lt_two_pow_bitsFor inv.pcLe, lt_two_pow_bitsFor inv.inactivePcLe,
    fun a ha => lt_two_pow_bitsFor (inv.stackBelow a ha).le, lt_two_pow_bitsFor inv.spLe,
    lt_two_pow_bitsFor inv.inactiveSpLe, lt_two_pow_bitsFor (inv.skLePc.trans inv.pcLe),
    lt_two_pow_bitsFor inv.inactiveSkLe, fun e tl =>
      ⟨by rw [Config.tpWidth, tl], (onTape_iff_lt_two_pow ..).mp inv.tpOn e tl⟩⟩

/-! ### Code beyond the image (R55) -/

theorem State.betweenSteps_of_waiting {s : State} (waiting : s.answer = .waiting) (r : State × Reply) :
    s.betweenSteps r = (s, .failed .busy) :=
  if_pos (decide_eq_true waiting)

/-- A request that may fail and is done has passed the gate and succeeded. -/
theorem ok_of_orFailed_done {s t : State} {e : Except HostError State}
    (done : s.betweenSteps (s.orFailed e) = (t, .done)) : e = .ok t := by
  by_cases waiting : s.answer = .waiting
  · cases (State.betweenSteps_of_waiting waiting _).symm.trans done
  · rw [State.betweenSteps_of_not_waiting waiting] at done
    cases e with
    | ok u => cases done; rfl
    | error e => cases done

theorem Memory.read_image_of_ge {image : List Byte} {a : Nat} (beyond : image.length ≤ a) :
    Memory.read (Memory.ofList 0 0 image) 0 a = 0 := by
  have readBack := Memory.read_ofList (0 : Byte) image 0 a
  rwa [Nat.zero_add, List.getD_eq_default image 0 beyond] at readBack

/-- A step that fetches 0x00 halts, with `pc` and all else but `sr.mode` unchanged (R190). -/
theorem step_of_fetched_nul {s : State} (running : s.mode = some .application ∨ s.mode = some .supervisor)
    (guard : s.invariantsHold = true) (nul : s.fetched = .nul) :
    step s = .next (Spec.stayed (Spec.halted s)) := by
  rw [step_eq_exec_fetched s running guard, nul, exec_nul]

theorem mode_space_eq_some {m : Mode} {space : CodeSpace} (notHalt : m ≠ .halt)
    (own : space = .scode ↔ m = .supervisor) : m.space = some space := by
  cases m <;> cases space <;> simp_all [Mode.space]

/-- Settles O43: a code load changes neither the registers nor the guard, so the next step of the store's mode
fetches what the image leaves unlisted. -/
theorem runningOffTheImageHalts : Obligations.RunningOffTheImageHalts := by
  refine ⟨fun c space a => by cases space <;> rfl, fun s space a inv => inv.codeAt_of_ge space,
    fun s t space image m done mode notHalt own guard beyond => ?_⟩
  obtain ⟨-, loaded⟩ := State.loadCode_eq_ok (ok_of_orFailed_done done)
  have readsZero : t.codeAt space s.pc = 0 := by
    rw [loaded, s.codeAt_withCode_same, Memory.read_image_of_ge beyond]
  have executes : step t = exec (decodeByte (t.codeAt space s.pc)) t := by
    have fetches := mode_space_eq_some notHalt own
    subst loaded
    cases space <;> exact step_eq_exec _ m _ mode fetches guard
  rw [executes, readsZero]
  exact exec_nul t

end Sys2Proof.Machine
end

section
/-! Proofs about what a step writes and what it leaves alone: `pc` (R107), the tape (R53), the registers
(spec/10_state.md section 7), the channel (R57, R58), the skip machine's table (spec/43_loop_control.md R152),
and the code store of the other mode (R65). Each part says once, over the effects of an instruction, who the
writers are. -/

namespace Sys2Proof.Machine

/-! ### Where `pc` goes (R107) -/

/-- The condition of a loop-back (R151). -/
def State.loopsBack (s : State) (i : Instr) : Prop := s.sk = 0 ∧ i = .loopClose ∧ s.cell ≠ 0

theorem State.not_loopsBack_of_ne {s : State} {i : Instr} (h : i ≠ .loopClose) : ¬ s.loopsBack i :=
  fun ⟨_, close, _⟩ => h close

theorem State.not_loopsBack_of_skipping {s : State} {i : Instr} (sk : 0 < s.sk) : ¬ s.loopsBack i :=
  fun ⟨zero, _⟩ => Nat.ne_of_gt sk zero

/-- What a completed instruction does to `pc`: it is NUL and stays, or traps, or loops back, or moves on; the
last two in the same mode (R107). -/
theorem Effect.pc_cases {s t : State} {i : Instr} (h : Effect s i t) (done : t.answer ≠ .waiting) :
    (t.mode = some .halt ∧ t.pc = s.pc) ∨ (∃ op, t = (s.trap op s.cell).inPlace) ∨
    (t.mode = s.mode ∧ s.loopsBack i ∧ t.pc = s.stackTop) ∨
    (t.mode = s.mode ∧ ¬ s.loopsBack i ∧ t.pc = s.pc + 1) := by
  cases h with
  | nul => exact .inl ⟨s.setMode_mode .halt, rfl⟩
  | trap i _ _ => exact .inr (.inl ⟨_, rfl⟩)
  | inputWait _ _ => exact absurd rfl done
  | closeBack sk _ nonzero => exact .inr (.inr (.inl ⟨rfl, ⟨sk, rfl, nonzero⟩, rfl⟩))
  | closeExit _ _ zero => exact .inr (.inr (.inr ⟨rfl, fun ⟨_, _, nonzero⟩ => nonzero zero, rfl⟩))
  | closeSkip pos => exact .inr (.inr (.inr ⟨rfl, State.not_loopsBack_of_skipping pos, rfl⟩))
  | skip _ pos => exact .inr (.inr (.inr ⟨rfl, State.not_loopsBack_of_skipping pos, rfl⟩))
  | _ => exact .inr (.inr (.inr ⟨rfl, State.not_loopsBack_of_ne nofun, rfl⟩))

/-- Settles O17: a trap goes to 0 from Application and halts in place from Supervisor; where the mode is kept
the first two rows of the rule do not apply. -/
theorem pcAfterAStep : Obligations.PcAfterAStep := by
  intro s t notHalted h done
  rcases step_effect h with ⟨halt, -⟩ | ⟨running, -, effect⟩
  · exact absurd halt notHalted
  have noEntry (kept : t.mode = s.mode) : ¬ (s.mode = some .application ∧ t.mode = some .supervisor) := by
    rintro ⟨app, sup⟩
    cases (sup.symm.trans kept).trans app
  rcases effect.pc_cases done with ⟨halt, pc⟩ | ⟨op, rfl⟩ | ⟨kept, back, pc⟩ | ⟨kept, onward, pc⟩
  · rw [if_pos halt, pc]
  · have mode := s.trap_mode op s.cell
    rw [State.inPlace_mode, State.inPlace_pc, mode]
    by_cases app : s.mode = some .application
    · simp [app, s.trap_of_application op _ app]
    · simp [app, s.trap_of_other op _ app]
  · rw [if_neg (kept ▸ notHalted), if_neg (noEntry kept), pc]
    exact (if_pos back).symm
  · rw [if_neg (kept ▸ notHalted), if_neg (noEntry kept), pc]
    exact (if_neg onward).symm

/-! ### The tape (R53, R59) -/

/-- The writers of the tape are `+`, `-` and `,` outside skip mode, and they write at `tp` (R53). -/
theorem Effect.tape_cases {s t : State} {i : Instr} (h : Effect s i t) :
    t.tape = s.tape ∨
    (s.sk = 0 ∧ (i = .inc ∨ i = .dec ∨ i = .input) ∧ ∃ v, t.tape = Memory.write s.tape 0 s.tp v) := by
  cases h with
  | trap i _ _ =>
    obtain ⟨-, -, -, tape, -⟩ := s.trap_keeps (encodeByte i) s.cell
    exact .inl tape
  | inc sk => exact .inr ⟨sk, .inl rfl, _, rfl⟩
  | dec sk => exact .inr ⟨sk, .inr (.inl rfl), _, rfl⟩
  | inputWrite _ _ sk _ _ => exact .inr ⟨sk, .inr (.inr rfl), _, rfl⟩
  | _ => exact .inl rfl

theorem step_tape_cases {s t : State} (h : step s = .next t) :
    t.tape = s.tape ∨
    (s.mode ≠ some .halt ∧ s.sk = 0 ∧ (s.fetched = .inc ∨ s.fetched = .dec ∨ s.fetched = .input) ∧
      ∃ v, t.tape = Memory.write s.tape 0 s.tp v) := by
  rcases step_effect h with ⟨-, rfl⟩ | ⟨running, -, effect⟩
  · exact .inl rfl
  · refine effect.tape_cases.imp_right fun written => ⟨?_, written⟩
    rcases running with app | sup
    · simp [app]
    · simp [sup]

/-- Settles O46: a step that changes the tape is one of the three writers, and writes one cell. -/
theorem stepWritesTapeOnlyAtTp : Obligations.StepWritesTapeOnlyAtTp := by
  intro s t h
  rcases step_tape_cases h with kept | ⟨notHalted, sk, writer, v, written⟩
  · exact ⟨fun a _ => by rw [State.tapeAt, State.tapeAt, kept], fun _ _ _ => kept, fun _ => kept,
      fun _ => kept⟩
  · refine ⟨fun a other => ?_, fun inc dec input => ?_, fun pos => absurd sk (Nat.ne_of_gt pos),
      fun halt => absurd halt notHalted⟩
    · rw [State.tapeAt, written, Memory.read_write, if_neg other, State.tapeAt]
    · rcases writer with h | h | h
      · exact absurd h inc
      · exact absurd h dec
      · exact absurd h input

/-! ### The registers (spec/10_state.md section 7) -/

section
variable {s t : State} {i : Instr} (h : Effect s i t)
include h

theorem Effect.tp_cases : t.tp = s.tp ∨ (s.sk = 0 ∧ (i = .right ∨ i = .left)) := by
  cases h with
  | trap i _ _ =>
    obtain ⟨-, tp, -⟩ := s.trap_keeps (encodeByte i) s.cell
    exact .inl tp
  | right sk _ => exact .inr ⟨sk, .inl rfl⟩
  | left sk _ => exact .inr ⟨sk, .inr rfl⟩
  | _ => exact .inl rfl

/-- The shadows are written by trap entry alone (R25). -/
theorem Effect.shadow_cases :
    (t.inactivePc = s.inactivePc ∧ t.inactiveSp = s.inactiveSp ∧ t.inactiveSk = s.inactiveSk) ∨
    (s.mode = some .application ∧ s.sk = 0 ∧ s.trapsOn i) := by
  cases h with
  | trap i sk traps =>
    by_cases app : s.mode = some .application
    · exact .inr ⟨app, sk, traps⟩
    · rw [s.trap_of_other _ _ app]
      exact .inl ⟨rfl, rfl, rfl⟩
  | _ => exact .inl ⟨rfl, rfl, rfl⟩

/-- The cause in `sr` is written by trap entry alone; NUL and a double fault keep it (R29, R30). -/
theorem Effect.cause_cases :
    (srOp t.sr = srOp s.sr ∧ srCell t.sr = srCell s.sr) ∨
    (s.mode = some .application ∧ s.sk = 0 ∧ s.trapsOn i) := by
  cases h with
  | nul => exact .inl ⟨srOp_withMode .., srCell_withMode ..⟩
  | trap i sk traps =>
    by_cases app : s.mode = some .application
    · exact .inr ⟨app, sk, traps⟩
    · rw [s.trap_of_other _ _ app]
      exact .inl ⟨srOp_withMode .., srCell_withMode ..⟩
  | _ => exact .inl ⟨rfl, rfl⟩

theorem Effect.sr_cases : t.sr = s.sr ∨ (s.sk = 0 ∧ s.trapsOn i) ∨ i = .nul := by
  cases h with
  | nul => exact .inr (.inr rfl)
  | trap i sk traps => exact .inr (.inl ⟨sk, traps⟩)
  | _ => exact .inl rfl

/-- The call stack is written by a push alone; a pop leaves its entry (R32, R33). -/
theorem Effect.stack_cases :
    t.stack = s.stack ∨ (i = .loopOpen ∧ s.sk = 0 ∧ t.stack = s.stack.set s.sp s.pc) := by
  cases h with
  | trap i _ _ =>
    obtain ⟨-, -, stack, -⟩ := s.trap_keeps (encodeByte i) s.cell
    exact .inl stack
  | openPush sk _ _ => exact .inr ⟨rfl, sk, rfl⟩
  | _ => exact .inl rfl

theorem Effect.sp_cases :
    t.sp = s.sp ∨ (s.sk = 0 ∧ (i = .loopOpen ∨ i = .loopClose ∨ (s.sk = 0 ∧ s.trapsOn i))) := by
  cases h with
  | trap i sk traps => exact .inr ⟨sk, .inr (.inr ⟨sk, traps⟩)⟩
  | openPush sk _ _ => exact .inr ⟨sk, .inl rfl⟩
  | closeBack sk _ _ => exact .inr ⟨sk, .inr (.inl rfl)⟩
  | closeExit sk _ _ => exact .inr ⟨sk, .inr (.inl rfl)⟩
  | _ => exact .inl rfl

/-- `sk` counts brackets; a trap, which sets it to 0, is taken with `sk = 0` (R155). -/
theorem Effect.sk_cases : t.sk = s.sk ∨ i = .loopOpen ∨ i = .loopClose := by
  cases h with
  | trap i sk _ =>
    unfold State.trap
    split
    · exact .inl sk.symm
    · exact .inl rfl
  | openNested _ => exact .inr (.inl rfl)
  | openSkip _ _ => exact .inr (.inl rfl)
  | closeSkip _ => exact .inr (.inr rfl)
  | _ => exact .inl rfl

end

/-- Settles O47: register by register, what the effects of an instruction leave alone is ruled out. -/
theorem stepRegisterWriters : Obligations.StepRegisterWriters := by
  intro s t h
  rcases step_effect h with ⟨-, rfl⟩ | ⟨-, -, effect⟩
  · simp
  rw [s.trapCause_iff]
  refine ⟨effect.tp_cases.resolve_left, fun changed => effect.shadow_cases.resolve_left ?_,
    fun changed => effect.cause_cases.resolve_left ?_, effect.sr_cases.resolve_left,
    effect.stack_cases.resolve_left, effect.sp_cases.resolve_left, effect.sk_cases.resolve_left,
    effect.cfg_eq⟩
  · rintro ⟨pc, sp, sk⟩
    simp [pc, sp, sk] at changed
  · rintro ⟨op, cell⟩
    simp [op, cell] at changed

/-! ### The channel (R57, R58, R66) -/

theorem Effect.output_cases {s t : State} {i : Instr} (h : Effect s i t) :
    t.output = s.output ∨ (s.sk = 0 ∧ i = .output ∧ t.output = s.output ++ [s.cellByte]) := by
  cases h with
  | trap i _ _ =>
    obtain ⟨-, -, -, -, -, -, -, -, output⟩ := s.trap_keeps (encodeByte i) s.cell
    exact .inl output
  | output sk => exact .inr ⟨sk, rfl, rfl⟩
  | _ => exact .inl rfl

theorem Effect.input_cases {s t : State} {i : Instr} (h : Effect s i t) :
    (t.input = s.input ∧ t.consumed = s.consumed) ∨
    (s.sk = 0 ∧ i = .input ∧ ∃ b, s.input = b :: t.input ∧ t.consumed = s.consumed + 1) := by
  cases h with
  | trap i _ _ =>
    obtain ⟨-, -, -, -, -, -, input, consumed, -⟩ := s.trap_keeps (encodeByte i) s.cell
    exact .inl ⟨input, consumed⟩
  | inputWrite b _ sk supplied _ => exact .inr ⟨sk, rfl, b, supplied, rfl⟩
  | inputDrop b _ sk supplied _ => exact .inr ⟨sk, rfl, b, supplied, rfl⟩
  | _ => exact .inl ⟨rfl, rfl⟩

/-- Settles O49: `.` and `,` are the only instructions on the channel, each for one byte. -/
theorem stepKeepsStreamOrder : Obligations.StepKeepsStreamOrder := by
  intro s t h
  rcases step_effect h with ⟨-, rfl⟩ | ⟨-, -, effect⟩
  · exact ⟨⟨[], (List.append_nil _).symm, .inl rfl⟩, [], rfl, rfl, .inl rfl⟩
  constructor
  · rcases effect.output_cases with kept | ⟨sk, fetched, sent⟩
    · exact ⟨[], by rw [kept, List.append_nil], .inl rfl⟩
    · exact ⟨[s.cellByte], sent, .inr ⟨sk, fetched, rfl⟩⟩
  · rcases effect.input_cases with ⟨kept, consumed⟩ | ⟨sk, fetched, b, oldest, consumed⟩
    · exact ⟨[], kept.symm, consumed, .inl rfl⟩
    · exact ⟨[b], oldest, consumed, .inr ⟨sk, fetched, rfl⟩⟩

/-! ### The skip machine (R152) -/

/-- Of the instructions executed with `sk = 0` only a skip begin leaves it (R152, R155). -/
theorem Effect.sk_eq_zero {s t : State} {i : Instr} (h : Effect s i t) (sk : s.sk = 0)
    (enters : i = .loopOpen → s.cell ≠ 0) : t.sk = 0 := by
  cases h with
  | trap i _ _ =>
    unfold State.trap
    split
    · rfl
    · exact sk
  | openNested pos => exact absurd sk (Nat.ne_of_gt pos)
  | openSkip _ zero => exact absurd zero (enters rfl)
  | closeSkip pos => exact absurd sk (Nat.ne_of_gt pos)
  | _ => exact sk

/-- Settles O15: the rows are the equations of the skip step; that a skipped step leaves the rest alone follows
from the writers, which all need `sk = 0`. -/
theorem skipMachineTable : Obligations.SkipMachineTable := by
  refine ⟨fun s => exec_loopOpen_of_cell_zero, fun i s t sk enters next => ?_,
    fun s => exec_loopOpen_of_skipping, fun s => exec_loopClose_of_skipping, fun s _ => exec_nul s,
    fun i s sk => ?_⟩
  · exact (Effect.of_exec next).sk_eq_zero sk enters
  · have skipping : s.sk ≠ 0 := Nat.ne_of_gt sk
    obtain ⟨t, next, effect⟩ := exec_effect i s
    obtain ⟨input, consumed⟩ := effect.input_cases.resolve_right fun ⟨zero, _⟩ => skipping zero
    exact ⟨t, next, effect.stack_cases.resolve_right fun ⟨_, zero, _⟩ => skipping zero,
      effect.sp_cases.resolve_right fun ⟨zero, _⟩ => skipping zero,
      effect.tp_cases.resolve_right fun ⟨zero, _⟩ => skipping zero,
      effect.tape_cases.resolve_right fun ⟨zero, _⟩ => skipping zero, input, consumed,
      effect.output_cases.resolve_right fun ⟨zero, _⟩ => skipping zero,
      fun ho hc hn => Host.Outcome.next.inj (next.symm.trans (exec_of_skipping sk ho hc hn))⟩

/-! ### The other mode's code store (R65) -/

/-- An effect is the outcome of its instruction: the converse of `Effect.of_exec`. -/
theorem Effect.exec {s t : State} {i : Instr} (h : Effect s i t) : Machine.exec i s = .next t := by
  cases h with
  | skip i sk ho hc hn => exact exec_of_skipping sk ho hc hn
  | nul => rfl
  | trap i sk traps => exact exec_of_trapsOn sk traps
  | right sk below => exact exec_right_of_not_trapsOn sk below
  | left sk above => exact exec_left_of_not_trapsOn sk above
  | inc sk => exact exec_inc_of_not_skipping sk
  | dec sk => exact exec_dec_of_not_skipping sk
  | output sk => exact exec_output_of_not_skipping sk
  | inputWrite b rest sk supplied on =>
    have stored := State.storeInput_of_writeback (s := s.takeInput rest) b on
    rw [exec_input_of_supplied sk supplied, stored, inputCell]
  | inputDrop b rest sk supplied off =>
    have dropped := State.storeInput_of_discard (s := s.takeInput rest) b off
    rw [exec_input_of_supplied sk supplied, dropped]
  | inputWait sk empty =>
    rw [Machine.exec, execInput, s.unlessSkipping_zero _ sk, empty]
    rfl
  | comment b sk => exact exec_comment_of_not_skipping b sk
  | openNested sk => exact exec_loopOpen_of_skipping sk
  | openSkip sk zero => exact exec_loopOpen_of_cell_zero sk zero
  | openPush sk nonzero room => exact exec_loopOpen_of_room sk nonzero room
  | closeSkip sk => exact exec_loopClose_of_skipping sk
  | closeBack sk nonempty nonzero => exact exec_loopClose_of_cell_ne_zero sk nonempty nonzero
  | closeExit sk nonempty zero => exact exec_loopClose_of_cell_zero sk nonempty zero

/-- The state with both code stores replaced. -/
def State.withStores (s : State) (acode scode : List Host.Cell) : State :=
  { s with acode := acode, scode := scode }

theorem State.trap_withStores (s : State) (acode scode : List Host.Cell) (op : Byte) (c : Nat) :
    (s.withStores acode scode).trap op c = (s.trap op c).withStores acode scode := by
  by_cases app : s.mode = some .application
  · rw [s.trap_of_application op c app]
    exact State.trap_of_application _ op c app
  · rw [s.trap_of_other op c app]
    exact State.trap_of_other _ op c app

/-- No meaning reads or writes a code store: an effect is the same over any other contents (R56). -/
theorem Effect.withStores {s t : State} {i : Instr} (h : Effect s i t) (acode scode : List Host.Cell) :
    Effect (s.withStores acode scode) i (t.withStores acode scode) := by
  cases h with
  | skip i sk ho hc hn => exact .skip i sk ho hc hn
  | nul => exact .nul
  | trap i sk traps =>
    have entered := Effect.trap (s := s.withStores acode scode) i sk (by cases i <;> exact traps)
    rw [State.trap_withStores] at entered
    exact entered
  | right sk below => exact .right sk below
  | left sk above => exact .left sk above
  | inc sk => exact .inc sk
  | dec sk => exact .dec sk
  | output sk => exact .output sk
  | inputWrite b rest sk supplied on => exact .inputWrite b rest sk supplied on
  | inputDrop b rest sk supplied off => exact .inputDrop b rest sk supplied off
  | inputWait sk empty => exact .inputWait sk empty
  | comment b sk => exact .comment b sk
  | openNested sk => exact .openNested sk
  | openSkip sk zero => exact .openSkip sk zero
  | openPush sk nonzero room => exact .openPush sk nonzero room
  | closeSkip sk => exact .closeSkip sk
  | closeBack sk nonempty nonzero => exact .closeBack sk nonempty nonzero
  | closeExit sk nonempty zero => exact .closeExit sk nonempty zero

theorem State.fetched_withStores {s : State} {m : Mode} {space : CodeSpace} {acode scode : List Host.Cell}
    (mode : s.mode = some m) (fetches : m.space = some space)
    (same : (s.withStores acode scode).codeAt space s.pc = s.codeAt space s.pc) :
    (s.withStores acode scode).fetched = s.fetched := by
  rw [State.fetched, State.fetched, s.fetched_eq m space mode fetches,
    State.fetched_eq (s.withStores acode scode) m space mode fetches]
  exact congrArg decodeByte same

/-- A step over other code stores is the same step where it fetches the same instruction. -/
theorem step_withStores {s t : State} {acode scode : List Host.Cell}
    (running : s.mode = some .application ∨ s.mode = some .supervisor)
    (same : (s.withStores acode scode).fetched = s.fetched) (h : step s = .next t) :
    step (s.withStores acode scode) = .next (t.withStores acode scode) := by
  rcases step_effect h with ⟨halt, -⟩ | ⟨-, guard, effect⟩
  · simp [halt] at running
  · rw [step_eq_exec_fetched (s.withStores acode scode) running guard, same]
    exact (effect.withStores acode scode).exec

theorem step_withStores_fault {s : State} {f : Fault} (acode scode : List Host.Cell) (h : step s = .fault f) :
    step (s.withStores acode scode) = .fault f := by
  rw [step_eq_fault_iff, State.fetchStage_eq_stopped_iff] at h ⊢
  exact h

/-- Settles O48: with the store of its own mode kept a step fetches the same byte, and keeps that store. -/
theorem stepIgnoresTheOtherCodeStore : Obligations.StepIgnoresTheOtherCodeStore := by
  refine fun s other => ⟨fun app => ⟨fun t h => ?_, fun f => step_withStores_fault s.acode other⟩,
    fun sup => ⟨fun t h => ?_, fun f => step_withStores_fault other s.scode⟩⟩
  · obtain ⟨acode, -⟩ := (s.codeStores_eq_iff t).mp (step_codeStores_eq h)
    have stepped := step_withStores (acode := s.acode) (scode := other) (.inl app)
      (State.fetched_withStores app rfl rfl) h
    exact stepped.trans (by rw [← acode]; rfl)
  · obtain ⟨-, scode⟩ := (s.codeStores_eq_iff t).mp (step_codeStores_eq h)
    have stepped := step_withStores (acode := other) (scode := s.scode) (.inr sup)
      (State.fetched_withStores sup rfl rfl) h
    exact stepped.trans (by rw [← scode]; rfl)

end Sys2Proof.Machine
end

section
/-! Proofs about what a trap leaves for the steps and requests after it (spec/60_exceptions.md R203, R207, R211,
spec/70_reset_and_hazards.md R253, R258): precise traps, the return that brings the faulting instruction back, an
empty supervisor store, and the rows of the mode's transition table. -/

namespace Sys2Proof.Machine

/-! ### Precise traps (R203) -/

theorem encodeByte_fetched (s : State) : encodeByte s.fetched = s.fetchedByte :=
  encodeByte_decodeByte s.fetchedByte

/-- The state after a step of Application on a trap cause. -/
def State.trapped (s : State) : State :=
  Spec.stayed (Spec.trapEntered s.fetchedByte.toNat (s.tapeAt s.tp) s)

/-- A step of Application on a trap cause leaves trap entry's state and nothing else (R201, R203). -/
theorem eq_trapped_of_trapCause {s t : State} (app : s.mode = some .application) (cause : s.TrapCause)
    (h : step s = .next t) : t = s.trapped := by
  rw [eq_trap_of_trapCause (.inl app) cause h, State.trap_eq_trapEntered _ _ app, encodeByte_fetched]
  rfl

/-- Settles O33: in either mode the step is the trap of the fetched instruction. -/
theorem trapsArePrecise : Obligations.TrapsArePrecise := by
  refine fun s t cause h => ⟨fun app => ?_, fun sup => ?_⟩
  · have trapped := eq_trapped_of_trapCause app cause h
    exact ⟨trapped, by rw [trapped]; rfl⟩
  · have notApp : s.mode ≠ some .application := by simp [sup]
    rw [eq_trap_of_trapCause (.inr sup) cause h, State.trap_eq_halted _ _ notApp]
    rfl

/-- A step on a cause, whose guard has held, is a step to the trap's state (R200, R201). -/
theorem step_of_trapCause {s : State} (app : s.mode = some .application) (guard : s.invariantsHold = true)
    (cause : s.TrapCause) : step s = .next s.trapped := by
  obtain ⟨sk, traps⟩ := s.trapCause_iff.mp cause
  rw [step_eq_exec_fetched s (.inl app) guard, exec_of_trapsOn sk traps, State.violate_of_application _ app,
    encodeByte_fetched, State.trapped]

theorem invariantsHold_of_step {s t : State} (app : s.mode = some .application) (h : step s = .next t) :
    s.invariantsHold = true := by
  rcases step_effect h with ⟨halt, -⟩ | ⟨-, guard, -⟩
  · cases app.symm.trans halt
  · exact guard

/-! ### The status register after a trap (R26) -/

/-- Rewriting the mode of a trap's status register leaves the trap's cause. -/
theorem withMode_srNumber (op : Byte) (c : Nat) (m m' : Mode) :
    withMode (Spec.srNumber op.toNat c m.ordinal.toNat) m' = Spec.srNumber op.toNat c m'.ordinal.toNat := by
  rw [← packSr_trunc8_eq_srNumber, ← packSr_trunc8_eq_srNumber, withMode, srOp_packSr, srCell_packSr]

theorem mode_eq_some_of_srNumber {s : State} {op : Byte} {c : Nat} {m : Mode}
    (h : s.sr = Spec.srNumber op.toNat c m.ordinal.toNat) : s.mode = some m := by
  rw [State.mode_eq_some, h, ← packSr_trunc8_eq_srNumber, srMode_packSr]

/-! ### The state a trap leaves -/

theorem State.trapped_mode (s : State) : s.trapped.mode = some .supervisor :=
  mode_eq_some_of_srNumber (s := s.trapped) (m := .supervisor) rfl

/-- Trap entry keeps the guard's bounds: it saves registers that are in them, and 0 is (R35, R201). -/
theorem State.trapped_invariantsHold {s : State} (guard : s.invariantsHold = true) :
    s.trapped.invariantsHold = true := by
  obtain ⟨sp, tp, sk, pc, -, -, -, sized, -, valid⟩ := s.invariantsHold_iff.mp guard
  exact s.trapped.invariantsHold_iff.mpr
    ⟨Nat.zero_le _, tp, Nat.zero_le _, Nat.zero_le _, sp, pc, sk, sized, nofun, valid⟩

/-! ### A return right after a trap (R207, R258) -/

/-- `s` after a trap and a return that leaves `sr` in the status register: all is as before, the shadows
cleared (R203, R207). -/
def State.returned (s : State) (sr : BitVec 24) : State :=
  Spec.stayed { s with inactivePc := 0, inactiveSp := 0, inactiveSk := 0, sr := sr }

theorem serve_ret_of_trapped (s : State) :
    (serve .ret s.trapped).1 = s.returned (Spec.srNumber s.fetchedByte.toNat (s.tapeAt s.tp) 0) := by
  have sr := withMode_srNumber s.fetchedByte (s.tapeAt s.tp) .supervisor .application
  rw [serve_ret_of_not_waiting (s := s.trapped) nofun,
    State.returnToApplication_of_supervisor s.trapped_mode]
  exact congrArg s.returned sr

/-- Back in Application the returned state fetches the same byte. -/
theorem State.returned_fetchedByte {s : State} {sr : BitVec 24} (app : s.mode = some .application)
    (back : (s.returned sr).mode = some .application) : (s.returned sr).fetchedByte = s.fetchedByte := by
  rw [s.fetched_eq .application .acode app rfl, (s.returned sr).fetched_eq .application .acode back rfl]
  rfl

theorem State.returned_invariantsHold {s : State} (sr : BitVec 24) (guard : s.invariantsHold = true) :
    (s.returned sr).invariantsHold = true := by
  obtain ⟨sp, tp, sk, pc, -, -, -, sized, live, valid⟩ := s.invariantsHold_iff.mp guard
  exact (s.returned sr).invariantsHold_iff.mpr
    ⟨sp, tp, sk, pc, Nat.zero_le _, Nat.zero_le _, Nat.zero_le _, sized, live, valid⟩

/-- Neither the guard, the fetch nor the cause reads what the return has left changed, and trap entry writes it
again, so the returned state traps to the same state. -/
theorem step_returned {s : State} {sr : BitVec 24} (app : s.mode = some .application)
    (guard : s.invariantsHold = true) (cause : s.TrapCause)
    (back : (s.returned sr).mode = some .application) : step (s.returned sr) = .next s.trapped := by
  have sameByte := State.returned_fetchedByte app back
  have sameCause : (s.returned sr).TrapCause := by
    rw [State.trapCause_iff, State.fetched, sameByte]
    exact s.trapCause_iff.mp cause
  rw [step_of_trapCause back (State.returned_invariantsHold sr guard) sameCause, State.trapped, sameByte]
  rfl

/-- Settles O36: the step, the return and the second step are the three rules above. -/
theorem returnReexecutesFaultingStep : Obligations.ReturnReexecutesFaultingStep := by
  intro s t app cause h
  have trapped := eq_trapped_of_trapCause app cause h
  rw [trapped, serve_ret_of_trapped]
  exact ⟨rfl, step_returned app (invariantsHold_of_step app h) cause
    (mode_eq_some_of_srNumber (m := .application) rfl)⟩

/-! ### An empty supervisor store (R253) -/

theorem State.trapped_fetched_of_empty {s : State} (empty : s.scode = []) : s.trapped.fetched = .nul := by
  have reads : s.trapped.codeAt .scode 0 = 0 := by
    rw [State.codeAt, show s.trapped.scode = [] from empty, Memory.read_nil]
  rw [State.fetched, s.trapped.fetched_eq .supervisor .scode s.trapped_mode rfl]
  exact congrArg decodeByte reads

/-- Settles O37: trap entry leaves a state of Supervisor that passes the guard, and the empty store reads NUL. -/
theorem emptySupervisorHaltsAfterTrap : Obligations.EmptySupervisorHaltsAfterTrap := by
  intro s t app empty cause h
  have trapped := eq_trapped_of_trapCause app cause h
  have guard := State.trapped_invariantsHold (invariantsHold_of_step app h)
  have sr := withMode_srNumber s.fetchedByte (s.tapeAt s.tp) .supervisor .halt
  rw [withMode_eq_srWithMode] at sr
  subst trapped
  exact ⟨rfl, step_of_fetched_nul (.inr s.trapped_mode) guard (State.trapped_fetched_of_empty empty), sr⟩

/-! ### The transition table (R211) -/

/-- The rows of the table that a step takes: a trap or NUL, in Application or in Supervisor. -/
def StepRow (s t : State) : Prop :=
  (s.mode = some .application ∧ t.mode = some .supervisor ∧ s.TrapCause) ∨
  (s.mode = some .application ∧ t.mode = some .halt ∧ s.fetched = .nul) ∨
  (s.mode = some .supervisor ∧ t.mode = some .halt ∧ (s.TrapCause ∨ s.fetched = .nul))

theorem stepRow_of_step {s t : State} (h : step s = .next t) (changed : t.mode ≠ s.mode) : StepRow s t := by
  rcases step_effect h with ⟨-, rfl⟩ | ⟨running, -, -⟩
  · exact absurd rfl changed
  rcases step_mode_cases h with kept | ⟨nul, halt⟩ | cause
  · exact absurd kept changed
  · rcases running with app | sup
    · exact .inr (.inl ⟨app, halt, nul⟩)
    · exact .inr (.inr ⟨sup, halt, .inr nul⟩)
  · have trapped := congrArg State.mode (eq_trap_of_trapCause running cause h)
    rw [State.inPlace_mode, s.trap_mode] at trapped
    rcases running with app | sup
    · exact .inl ⟨app, trapped.trans (if_pos app), cause⟩
    · exact .inr (.inr ⟨sup, trapped.trans (if_neg (by simp [sup])), .inl cause⟩)

theorem State.serveStep_stepRow {s : State} (changed : s.serveStep.1.mode ≠ s.mode) :
    StepRow s s.serveStep.1 := by
  unfold State.serveStep at changed ⊢
  split at changed
  · next t h => exact stepRow_of_step h changed
  · exact absurd rfl changed
  · exact absurd rfl changed

/-- A supply that changes the mode is a step with the byte there, which changes neither what is fetched nor
the causes. -/
theorem State.serveSupply_stepRow {s : State} {b : Byte} (changed : (s.serveSupply b).1.mode ≠ s.mode) :
    StepRow s (s.serveSupply b).1 := by
  unfold State.serveSupply at changed ⊢
  split at changed
  · next waiting =>
    rw [if_pos waiting]
    exact State.serveStep_stepRow (s := s.withInput b) changed
  · exact absurd rfl changed

theorem RegName.eq_sr_of_ofString {name : String} (h : RegName.ofString name = some .sr) : name = "sr" := by
  unfold RegName.ofString at h
  split_ifs at h
  all_goals cases h
  assumption

/-- Of the register writes only one of `sr` changes the mode, and it writes a legal one (R217). -/
theorem State.regSet_mode_changed {s t : State} {name : String} {v : Nat} (ok : s.regSet name v = .ok t)
    (changed : t.mode ≠ s.mode) : name = "sr" ∧ t.sr = BitVec.ofNat 24 v ∧ t.mode ≠ none := by
  obtain ⟨r, named, legal, rfl⟩ := State.regSet_eq_ok ok
  cases r with
  | sr =>
    rw [State.legalReg, Bool.and_eq_true] at legal
    exact ⟨RegName.eq_sr_of_ofString named, rfl, Option.isSome_iff_ne_none.mp legal.2⟩
  | _ => exact absurd rfl changed

/-- The rows of a step beside those of the requests that are no step. -/
theorem StepRow.of_request {s t : State} {Q R : Prop} (row : StepRow s t) (request : Q) :
    (s.mode = some .application ∧ t.mode = some .supervisor ∧ s.TrapCause ∧ Q) ∨
    (s.mode = some .application ∧ t.mode = some .halt ∧ s.fetched = .nul ∧ Q) ∨
    (s.mode = some .supervisor ∧ t.mode = some .halt ∧ (s.TrapCause ∨ s.fetched = .nul) ∧ Q) ∨ R := by
  rcases row with ⟨app, sup, cause⟩ | ⟨app, halt, nul⟩ | ⟨sup, halt, why⟩
  · exact .inl ⟨app, sup, cause, request⟩
  · exact .inr (.inl ⟨app, halt, nul, request⟩)
  · exact .inr (.inr (.inl ⟨sup, halt, why, request⟩))

/-- A return that changes the mode is one from Supervisor (R207, R208). -/
theorem State.ret_mode_changed {s : State} (changed : s.returnToApplication.mode ≠ s.mode) :
    s.mode = some .supervisor ∧ s.returnToApplication.mode = some .application := by
  by_cases sup : s.mode = some .supervisor
  · refine ⟨sup, ?_⟩
    rw [State.returnToApplication_of_supervisor sup, State.mode_eq_some, srMode_withMode]
  · rw [State.returnToApplication_of_other sup] at changed
    exact absurd rfl changed

theorem State.loadCode_mode_eq {s t : State} {space : CodeSpace} {image : List Byte}
    (ok : s.loadCode space image = .ok t) : t.mode = s.mode := by
  obtain ⟨-, rfl⟩ := State.loadCode_eq_ok ok
  cases space <;> rfl

theorem State.loadTape_mode_eq {s t : State} {image : List (Nat × Nat)} (ok : s.loadTape image = .ok t) :
    t.mode = s.mode := by
  obtain ⟨-, rfl⟩ := (s.loadTape_eq_ok_iff t image).mp ok
  rfl

section
variable {s : State} {r : State × Reply} {e : Except HostError State}

/-- A request that changes the mode has passed the gate (R110). -/
theorem betweenSteps_eq_of_mode_changed (changed : (s.betweenSteps r).1.mode ≠ s.mode) :
    (s.betweenSteps r).1 = r.1 :=
  (s.betweenSteps_fst r).resolve_left fun same => changed (congrArg State.mode same)

/-- A request that may fail and changes the mode has passed the gate and succeeded. -/
theorem orFailed_ok_of_mode_changed (changed : (s.betweenSteps (s.orFailed e)).1.mode ≠ s.mode) :
    e = .ok (s.betweenSteps (s.orFailed e)).1 := by
  have passed := betweenSteps_eq_of_mode_changed changed
  rw [passed] at changed ⊢
  exact (s.orFailed_fst e).resolve_left fun same => changed (congrArg State.mode same)

end

/-- Settles O34: a step or a supply takes a row of a step; a return, a reset and a write of `sr` are rows of
their own; a load, a register read, any other write and taking output keep the mode. -/
theorem modeChangesOnlyByTheTable : Obligations.ModeChangesOnlyByTheTable := by
  intro q s t served changed
  subst served
  cases q with
  | reset =>
    have passed := congrArg State.mode (betweenSteps_eq_of_mode_changed changed)
    exact .inr (.inr (.inr (.inr (.inl ⟨passed.trans (State.initial_mode s.cfg), rfl⟩))))
  | loadCode space image => exact absurd (State.loadCode_mode_eq (orFailed_ok_of_mode_changed changed)) changed
  | loadTape image => exact absurd (State.loadTape_mode_eq (orFailed_ok_of_mode_changed changed)) changed
  | loadTapeBytes bytes =>
    have loaded := State.loadTapeBytes_eq_ok (orFailed_ok_of_mode_changed changed)
    exact absurd (State.loadTape_mode_eq loaded) changed
  | step =>
    have passed := betweenSteps_eq_of_mode_changed changed
    rw [serve, passed] at changed ⊢
    exact (State.serveStep_stepRow changed).of_request (.inl rfl)
  | supply b => exact (State.serveSupply_stepRow changed).of_request (.inr ⟨b, rfl⟩)
  | takeOutput => exact absurd rfl changed
  | ret =>
    have passed := betweenSteps_eq_of_mode_changed changed
    rw [serve, passed] at changed ⊢
    obtain ⟨sup, app⟩ := State.ret_mode_changed changed
    exact .inr (.inr (.inr (.inl ⟨sup, app, rfl⟩)))
  | regGet name =>
    have passed := betweenSteps_eq_of_mode_changed changed
    rw [s.valueReply_fst] at passed
    exact absurd (congrArg State.mode passed) changed
  | regSet name v =>
    obtain ⟨rfl, sr, legal⟩ := State.regSet_mode_changed (orFailed_ok_of_mode_changed changed) changed
    exact .inr (.inr (.inr (.inr (.inr ⟨v, rfl, sr, legal⟩))))

end Sys2Proof.Machine
end

section
/-! Proofs about the host's side: register reads (spec/60_exceptions.md R215), a waiting `,` and its supply (R58,
R110, R218), and the machine as a function of its configuration (spec/00_scope.md R4). -/

namespace Sys2Proof.Machine

/-! ### Register reads and the gate of a request (R110, R215) -/

theorem serve_regGet_of_named {s : State} {name : String} {r : RegName} (notWaiting : s.answer ≠ .waiting)
    (named : RegName.ofString name = some r) : serve (.regGet name) s = (s, .value (s.readReg r)) := by
  rw [serve, State.betweenSteps_of_not_waiting notWaiting, State.regGet, named]
  rfl

theorem serve_regGet_of_unknown {s : State} {name : String} (notWaiting : s.answer ≠ .waiting)
    (unknown : RegName.ofString name = none) : serve (.regGet name) s = (s, .failed .unknownRegister) := by
  rw [serve, State.betweenSteps_of_not_waiting notWaiting, State.regGet, unknown]
  rfl

/-- Settles O39: each name is its register's, any other is none, and a waiting step closes the gate. -/
theorem registerReads : Obligations.RegisterReads := by
  refine fun s => ⟨fun notWaiting => ?_, fun waiting name v =>
    ⟨State.betweenSteps_of_waiting waiting _, State.betweenSteps_of_waiting waiting _⟩⟩
  have read (name : String) (r : RegName) (named : RegName.ofString name = some r) :
      serve (.regGet name) s = (s, .value (s.readReg r)) :=
    serve_regGet_of_named notWaiting named
  exact ⟨read "pc" .pc rfl, read "tp" .tp rfl, read "sp" .sp rfl, read "sk" .sk rfl, read "sr" .sr rfl,
    read "inactive_pc" .inactivePc rfl, read "inactive_sp" .inactiveSp rfl,
    read "inactive_sk" .inactiveSk rfl,
    fun name other => serve_regGet_of_unknown notWaiting (RegName.ofString_eq_none other)⟩

/-- Settles O50: every other request goes through the gate. -/
theorem waitingStepLocksTheHost : Obligations.WaitingStepLocksTheHost := by
  intro q s waiting notOutput notSupply
  cases q with
  | supply b => exact absurd rfl (notSupply b)
  | takeOutput => exact absurd rfl notOutput
  | _ => exact State.betweenSteps_of_waiting waiting _

theorem State.serveSupply_of_waiting {s : State} (b : Byte) (waiting : s.answer = .waiting) :
    s.serveSupply b = (s.withInput b).serveStep :=
  if_pos (decide_eq_true waiting)

/-- Settles O58: the test of a supply. -/
theorem supplyNeedsAWaitingStep : Obligations.SupplyNeedsAWaitingStep :=
  fun _ s notWaiting => if_neg (by simpa [State.isWaiting] using notWaiting)

/-! ### A waiting step and its supply (R58, R110, R181) -/

theorem exec_input_of_empty {s : State} (sk : s.sk = 0) (empty : s.input = []) :
    exec .input s = .next (s.setAnswer .waiting) :=
  (Effect.inputWait sk empty).exec

/-- Only a `,` with no byte there waits, and it changes the answer alone (R58). -/
theorem Effect.of_waiting {s t : State} {i : Instr} (h : Effect s i t) (waiting : t.answer = .waiting) :
    i = .input ∧ s.sk = 0 ∧ s.input = [] ∧ t = s.setAnswer .waiting := by
  cases h with
  | inputWait sk empty => exact ⟨rfl, sk, empty, rfl⟩
  | _ => cases waiting

/-- What holds in a state whose next step waits. -/
structure Awaits (s : State) : Prop where
  running : s.mode = some .application ∨ s.mode = some .supervisor
  guard : s.invariantsHold = true
  fetched : s.fetched = .input
  sk : s.sk = 0
  empty : s.input = []

theorem awaits_of_step {s t : State} (h : step s = .next t) (waiting : t.answer = .waiting) :
    Awaits s ∧ t = s.setAnswer .waiting := by
  rcases step_effect h with ⟨-, rfl⟩ | ⟨running, guard, effect⟩
  · cases waiting
  · obtain ⟨fetched, sk, empty, same⟩ := effect.of_waiting waiting
    exact ⟨⟨running, guard, fetched, sk, empty⟩, same⟩

/-- Neither the guard nor the fetch reads the answer, so the step waits again. -/
theorem Awaits.step_again {s : State} (h : Awaits s) :
    step (s.setAnswer .waiting) = .next (s.setAnswer .waiting) := by
  have fetched : (s.setAnswer .waiting).fetched = .input := h.fetched
  rw [step_eq_exec_fetched (s.setAnswer .waiting) h.running h.guard, fetched]
  exact exec_input_of_empty h.sk h.empty

/-- The waiting state once its `,` has taken the supplied byte: the queue is empty again. -/
def State.supplied (s : State) : State := { s with consumed := s.consumed + 1, answer := .waiting }

theorem Awaits.takeInput_withInput {s : State} (h : Awaits s) (b : Byte) :
    ((s.setAnswer .waiting).withInput b).takeInput [] = s.supplied :=
  congrArg (fun input => ({ s.supplied with input := input } : State)) h.empty.symm

/-- The waiting step with the byte there takes it and stores it (R181). -/
theorem Awaits.step_supplied {s : State} (h : Awaits s) (b : Byte) :
    step ((s.setAnswer .waiting).withInput b) = .next ((s.supplied.storeInput b).onward 1) := by
  have oldest : ((s.setAnswer .waiting).withInput b).input = [b] := by
    rw [State.withInput_input, State.setAnswer_input, h.empty, List.nil_append]
  have fetched : ((s.setAnswer .waiting).withInput b).fetched = .input := h.fetched
  have executed := exec_input_of_supplied (s := (s.setAnswer .waiting).withInput b) h.sk oldest
  rw [step_eq_exec_fetched ((s.setAnswer .waiting).withInput b) h.running h.guard, fetched, executed,
    h.takeInput_withInput]

/-- Settles O51: the supplied step is a `,` with its byte, whose frame is that of every such step. -/
theorem supplyCompletesWaitingStep : Obligations.SupplyCompletesWaitingStep := by
  refine ⟨fun s => exec_input_of_empty, fun s t h waiting => ?_⟩
  obtain ⟨awaits, rfl⟩ := awaits_of_step h waiting
  refine ⟨rfl, awaits.step_again, awaits.fetched, awaits.empty, fun b =>
    ⟨(s.supplied.storeInput b).onward 1, ?_, s.supplied.storeInput_onward_frame b 1⟩⟩
  rw [serve, State.serveSupply_of_waiting b rfl, State.serveStep, awaits.step_supplied b]
  rfl

/-! ### The configuration as a parameter (R4) -/

theorem runLoop_cfg (fuel maxCycles steps cycles : Nat) (s : State) :
    (runLoop fuel maxCycles steps cycles s).state.cfg = s.cfg := by
  induction fuel generalizing steps cycles s with
  | zero => rfl
  | succ fuel ih =>
    rw [runLoop]
    split
    · split
      · next t h =>
        have kept : t.cfg = s.cfg := step_cfg_eq h
        split
        · exact (ih ..).trans kept
        · exact kept
        · exact kept
      · rfl
      · rfl
    · rfl

theorem runExactLoop_cfg (n steps cycles : Nat) (s : State) :
    (runExactLoop n steps cycles s).state.cfg = s.cfg := by
  induction n generalizing steps cycles s with
  | zero => rfl
  | succ n ih =>
    rw [runExactLoop]
    split
    · next t h =>
      have kept : t.cfg = s.cfg := step_cfg_eq h
      split
      · exact (ih ..).trans kept
      · exact kept
      · exact kept
    · rfl
    · rfl

/-- A parametric step is the host's step with the same parameter on both sides. -/
theorem stepIn_eq_next_iff (c : Config) (k k' : CoreState) :
    stepIn c k = .next k' ↔ step (k.under c) = .next (k'.under c) := by
  rw [stepIn]
  rcases step_outcome (k.under c) with ⟨t, next⟩ | ⟨f, -, fault⟩
  · have same := t.eq_under c (step_cfg_eq next)
    rw [next, dropParameter, Host.Outcome.next.injEq, Host.Outcome.next.injEq]
    exact ⟨fun core => by rw [same, core], fun eq => by rw [eq, CoreState.under_toCoreState]⟩
  · rw [fault, dropParameter]
    exact ⟨nofun, nofun⟩

theorem stepIn_eq_fault_iff (c : Config) (k : CoreState) (f : Fault) :
    stepIn c k = .fault f ↔ step (k.under c) = .fault f := by
  rw [stepIn]
  rcases step_outcome (k.under c) with ⟨t, next⟩ | ⟨g, -, fault⟩
  · rw [next, dropParameter]
    exact ⟨nofun, nofun⟩
  · rw [fault, dropParameter, Host.Outcome.fault.injEq, Host.Outcome.fault.injEq]

theorem serve_under (c : Config) (q : Request) (k : CoreState) :
    serve q (k.under c) = ((serveIn c q k).1.under c, (serveIn c q k).2) := by
  obtain ⟨cfg, -⟩ := serve_keepsConfig q (k.under c)
  exact Prod.ext (State.eq_under _ c cfg) rfl

theorem serveAll_under (c : Config) (qs : List Request) (k : CoreState) :
    serveAll qs (k.under c) = (serveAllIn c qs k).under c := by
  induction qs generalizing k with
  | nil => rfl
  | cons q qs ih => rw [serveAll, serve_under, ih, serveAllIn]

/-- Settles O57: no operation writes the parameter, so each result is its own state under it. -/
theorem configurationIsAParameter : Obligations.ConfigurationIsAParameter :=
  ⟨fun _ invalid => if_neg (Bool.eq_false_iff.mp invalid),
    fun c valid => ⟨(construct_eq_ok_iff c _).mpr ⟨valid, rfl⟩, if_pos valid⟩,
    fun c k => ⟨stepIn_eq_next_iff c k, stepIn_eq_fault_iff c k⟩, serve_under, serveAll_under,
    fun c _ _ => ⟨State.eq_under _ c (runLoop_cfg ..), State.eq_under _ c (runExactLoop_cfg ..)⟩⟩

end Sys2Proof.Machine
end

section
/-! Proofs about several steps: the loop-back and its `[` (spec/43_loop_control.md R154), the halted machine (R101,
R254), and the host's `run` (spec/60_exceptions.md R219). -/

namespace Sys2Proof.Machine

/-! ### The loop-back (R154) -/

/-- The state a loop-back leaves, the popped entry being `a` (R151). -/
def State.loopedBack (s : State) (a : Nat) : State := (s.popEntry.setPc a).inPlace

/-- The entry a loop-back pops is a live one, so the guard has checked it (R35, R109). -/
theorem exists_live_entry {s : State} (guard : s.invariantsHold = true) (nonempty : 0 < s.sp) :
    ∃ a, s.stack[s.sp - 1]? = some a ∧ a < s.cfg.il := by
  obtain ⟨-, -, -, -, -, -, -, -, live, -⟩ := (guardIsTheInvariantTable s).mp guard
  exact live (s.sp - 1) (by omega)

theorem State.loopedBack_invariantsHold {s : State} {a : Nat} (guard : s.invariantsHold = true)
    (inside : a < s.cfg.il) : (s.loopedBack a).invariantsHold = true := by
  obtain ⟨sp, tp, sk, -, inactiveSp, inactivePc, inactiveSk, sized, live, valid⟩ :=
    (guardIsTheInvariantTable s).mp guard
  exact (guardIsTheInvariantTable (s.loopedBack a)).mpr ⟨(Nat.sub_le ..).trans sp, tp, sk, inside.le,
    inactiveSp, inactivePc, inactiveSk, sized, fun j hj => live j (Nat.lt_of_lt_of_le hj (Nat.sub_le ..)), valid⟩

/-- The `[` of a loop-back pushes the entry just popped, which the stack still holds (R33). -/
theorem State.loopedBack_pushPc {s : State} {a : Nat} (nonempty : 0 < s.sp)
    (entry : s.stack[s.sp - 1]? = some a) :
    (s.loopedBack a).pushPc.onward 1 = { s with pc := a + 1, answer := .pair 1 1 } := by
  have stack : s.stack.set (s.sp - 1) a = s.stack := by
    obtain ⟨inside, rfl⟩ := List.getElem?_eq_some_iff.mp entry
    exact List.set_getElem_self inside
  have depth : s.sp - 1 + 1 = s.sp := Nat.sub_add_cancel nonempty
  calc (s.loopedBack a).pushPc.onward 1
    _ = { s with pc := a + 1, answer := .pair 1 1, stack := s.stack.set (s.sp - 1) a, sp := s.sp - 1 + 1 } := rfl
    _ = { s with pc := a + 1, answer := .pair 1 1 } := by rw [stack, depth]

/-- Settles O52: the pop makes room, the cell is still not zero, and the push undoes the pop. -/
theorem loopBackReentersTheBody : Obligations.LoopBackReentersTheBody := by
  intro s t running sk fetched nonempty nonzero h opens
  rcases step_effect h with ⟨halt, -⟩ | ⟨-, guard, -⟩
  · simp [halt] at running
  obtain ⟨a, entry, inside⟩ := exists_live_entry guard nonempty
  have back : t = s.loopedBack a := by
    have executed := exec_fetched_of_step running h
    rw [fetched, exec_loopClose_of_cell_ne_zero sk (Nat.ne_of_gt nonempty) nonzero,
      State.stackTop_of_getElem? entry] at executed
    exact (Host.Outcome.next.inj executed).symm
  subst back
  have room : (s.loopedBack a).sp ≠ s.cfg.sd := by
    obtain ⟨sp, -⟩ := s.invariantsHold_iff.mp guard
    have popped : s.sp - 1 ≠ s.cfg.sd := by omega
    exact popped
  have executed := exec_loopOpen_of_room (s := s.loopedBack a) sk nonzero room
  refine ⟨a, entry, rfl, ?_⟩
  rw [step_eq_exec_fetched (s.loopedBack a) running (State.loopedBack_invariantsHold guard inside), opens,
    executed, State.loopedBack_pushPc nonempty entry]

/-! ### The halted machine (R101, R254) -/

/-- Settles O53: the halted step is halted again, and repeating it writes the same answer. -/
theorem haltedForEver : Obligations.HaltedForEver := by
  intro n
  induction n with
  | zero => exact fun s halt => coreRun_next core 0 s _ (haltedStepTouchesNothing s halt)
  | succ n ih =>
    intro s halt
    rw [coreRun_next core (n + 1) s _ (haltedStepTouchesNothing s halt)]
    exact ih _ halt

/-! ### The host's `run` (R219) -/

/-- What a step costs, and that one without a cost has moved `pc` on (R108, R191). -/
theorem Effect.cost_cases {s t : State} {i : Instr} (h : Effect s i t) :
    t.answer = .waiting ∨ t.answer = .pair 1 1 ∨ (t.answer = .pair 1 0 ∧ t.pc = s.pc + 1) := by
  cases h with
  | inputWait _ _ => exact .inl rfl
  | comment _ _ => exact .inr (.inr ⟨rfl, rfl⟩)
  | _ => exact .inr (.inl rfl)

theorem step_cost_cases {s t : State} (running : s.mode ≠ some .halt) (h : step s = .next t) :
    t.answer = .waiting ∨ t.answer = .pair 1 1 ∨ (t.answer = .pair 1 0 ∧ t.pc = s.pc + 1) := by
  rcases step_effect h with ⟨halt, -⟩ | ⟨-, -, effect⟩
  · exact absurd halt running
  · exact effect.cost_cases

/-- A driver's loop that has ended for a reason R219 gives. -/
def RunReport.Ended (maxCycles : Nat) (r : RunReport State) : Prop :=
  (r.ended = .finished ∧ (r.state.mode = some .halt ∨ maxCycles ≤ r.cycles)) ∨
  (r.ended = .waiting ∧ r.state.answer = .waiting)

/-- The steps that the loop can still take: within each cycle left, as many as `pc` can move on (R219). -/
def stepsLeft (maxCycles cycles : Nat) (s : State) : Nat :=
  (maxCycles - cycles) * (s.cfg.il + 1) + (s.cfg.il - s.pc)

/-- A cycle spent pays for all that `pc` can move on in the next one. -/
theorem stepsLeft_of_cycle {maxCycles cycles : Nat} {s t : State} (cfg : t.cfg = s.cfg)
    (budget : cycles < maxCycles) :
    stepsLeft maxCycles (cycles + 1) t < stepsLeft maxCycles cycles s := by
  have spent : maxCycles - cycles = maxCycles - (cycles + 1) + 1 := by omega
  rw [stepsLeft, stepsLeft, spent, Nat.succ_mul, cfg]
  omega

theorem stepsLeft_of_free {maxCycles cycles : Nat} {s t : State} (pc : t.pc ≤ t.cfg.il)
    (cfg : t.cfg = s.cfg) (moved : t.pc = s.pc + 1) :
    stepsLeft maxCycles (cycles + 0) t < stepsLeft maxCycles cycles s := by
  rw [stepsLeft, stepsLeft, Nat.add_zero, cfg]
  rw [cfg] at pc
  omega

/-- The loop ends before its fuel does: each step spends a cycle or moves `pc` on below `il`. -/
theorem runLoop_ended {fuel maxCycles steps cycles : Nat} {s : State} (inv : RunInv s)
    (enough : stepsLeft maxCycles cycles s < fuel) :
    (runLoop fuel maxCycles steps cycles s).Ended maxCycles := by
  induction fuel generalizing steps cycles s with
  | zero => omega
  | succ fuel ih =>
    rw [runLoop]
    split
    · next goesOn =>
      obtain ⟨running, budget⟩ := goesOn
      obtain ⟨t, h⟩ := inv.step_next
      have after : RunInv t := inv.of_step h
      have cfg : t.cfg = s.cfg := step_cfg_eq h
      rw [h]
      rcases step_cost_cases running h with waiting | cost | ⟨free, pc⟩
      · simp only [waiting]
        exact .inr ⟨rfl, waiting⟩
      · simp only [cost]
        exact ih after (Nat.lt_of_lt_of_le (stepsLeft_of_cycle cfg budget) (Nat.le_of_lt_succ enough))
      · simp only [free]
        exact ih after (Nat.lt_of_lt_of_le (stepsLeft_of_free after.pcLe cfg pc) (Nat.le_of_lt_succ enough))
    · next ends =>
      refine .inl ⟨rfl, ?_⟩
      by_cases halt : s.mode = some .halt
      · exact .inl halt
      · exact .inr (Nat.not_lt.mp fun budget => ends ⟨halt, budget⟩)

/-- Settles O54: the fuel of `run` exceeds the steps that a run can take. -/
theorem runAlwaysEnds : Obligations.RunAlwaysEnds := by
  intro maxCycles s inv
  refine runLoop_ended inv ?_
  have moves : s.cfg.il - s.pc < s.cfg.il + 1 := by omega
  rw [stepsLeft, Nat.sub_zero, Nat.succ_mul]
  exact Nat.add_lt_add_left moves _

end Sys2Proof.Machine
end
